-- ==== Sys2Proof/Word.lean ====
section
/-!
DEFINITION. The words of the machine (spec/00_scope.md R6, R8): bytes, addresses, request words, and the two
reductions `u8` and `u16`.
-/

namespace Sys2Proof

/-- An 8-bit unsigned number: every scalar operand and every register (R6: OPW, REGW). -/
abbrev Byte := BitVec 8

/-- A 16-bit source-memory address or pattern pointer (R6: AW). -/
abbrev Addr := BitVec 16

/-- A 4-bit field of an output command byte (R91 to R93), and the controller's page pointer (R70). -/
abbrev Nibble := BitVec 4

/-- A single bit: `rsp_count` (R86), the command/data-select level (R89). -/
abbrev Bit := BitVec 1

/-- A 40-bit request word (R82). -/
abbrev Request := BitVec 40

/-- `u8(v) = v mod 256` (R8). -/
abbrev u8 (v : Nat) : Byte := BitVec.ofNat 8 v

/-- `u16(v) = v mod 65536` (R8). -/
abbrev u16 (v : Nat) : Addr := BitVec.ofNat 16 v

end Sys2Proof
end

