-- ==== Sys2Proof/Config.lean ====
section
/-!
DEFINITION. What is fixed for the machine: the parameters the spec fixes (spec/00_scope.md R5), the two it leaves
open (R7: INIT_SEQ and GLYPH_ROM, here constants with no body), and the free values of the model, each a constant
with no body of which nothing can be proved.
-/

namespace Sys2Proof.Config

/-! ## The parameters of R5 -/

/-- WIDTH: the value BEGIN writes to `widthPx`. -/
@[simp] abbrev width : Byte := 128

/-- HEIGHT: the value BEGIN writes to `heightPx`. -/
@[simp] abbrev height : Byte := 64

/-- BIAS: the offset added to a logical column. -/
@[simp] abbrev bias : Nat := 4

/-- PAGE_ROWS: pixel rows in a page. -/
@[simp] abbrev pageRows : Nat := 8

/-- CLEAR_PAGES: pages CLEAR visits. -/
@[simp] abbrev clearPages : Nat := 8

/-- CLEAR_FILL: zero bytes CLEAR writes in a page. -/
@[simp] abbrev clearFill : Nat := 132

/-- LINE_FILL: zero bytes CLEARLINE writes; also the number of visible columns (R53). -/
@[simp] abbrev lineFill : Nat := 128

/-- GLYPH_COLS: pattern bytes of a glyph. -/
@[simp] abbrev glyphCols : Nat := 5

/-- CELL_COLS: data bytes of a character, and the column advance. -/
@[simp] abbrev cellCols : Nat := 6

/-- N_SLOTS: custom glyph slots. -/
@[simp] abbrev nSlots : Nat := 32

/-- SPACE: the first printable code, the origin of the glyph table's index. -/
@[simp] abbrev space : Nat := 0x20

/-- N_GLYPHS: entries of the glyph table. -/
@[simp] abbrev nGlyphs : Nat := 96

/-- REJECT_MIN: the smallest byte WRITE rejects. -/
@[simp] abbrev rejectMin : Nat := 0x80

/-- CR, `\r`. PRESUMED by the spec from ASCII (93 K1; log 17). -/
@[simp] abbrev carriageReturn : Byte := 0x0D

/-- NL, `\n`. PRESUMED by the spec from ASCII (93 K1; log 17). -/
@[simp] abbrev newline : Byte := 0x0A

/-- PAGE_CMD: base of the page-select command byte. -/
@[simp] abbrev pageCmd : Nat := 0xB0

/-- COLHI_CMD: base of the column-high-nibble command byte. -/
@[simp] abbrev colHiCmd : Nat := 0x10

/-- WRAP_DIV: the divisor in the line-wrap modulus. -/
@[simp] abbrev wrapDiv : Nat := 9

/-- DELAY_A, in milliseconds. -/
@[simp] abbrev delayA : Nat := 100

/-- DELAY_B, in milliseconds. -/
@[simp] abbrev delayB : Nat := 200

/-! ## INIT_SEQ (R7, R120): the command bytes of each named step, in the steps' order; log 9. The last four steps are
one command each, as R120 writes the tail; the spec does not say how many commands the others have. -/

/-- The commands of the "reset" step. -/
opaque initReset : List Byte

/-- The commands of the "scan direction" step. -/
opaque initScanDirection : List Byte

/-- The commands of the "bias" step. -/
opaque initBias : List Byte

/-- The commands of the "power/booster/voltage-follower enable" step. -/
opaque initPower : List Byte

/-- The commands of the "contrast/electronic-volume set" step. -/
opaque initContrast : List Byte

/-- The "display-enable" command, the last before the first delay. -/
opaque initDisplayEnable : Byte

/-- The "all pixels on" command between the two delays. -/
opaque initAllPixelsOn : Byte

/-- The return-to-normal-display command, the last item. -/
opaque initNormalDisplay : Byte

/-! ## GLYPH_ROM (R7, R51): entries 1 to 95 are unconstrained; entry 0 is fixed in Machine/Operands.lean; log 10 -/

/-- `glyphPattern i k`: byte `k` of the supplied entry `i`. -/
opaque glyphPattern : Nat → Nat → Byte

/-! ## Free values -/

/-- The four registers that hardware reset leaves unwritten (R34). -/
inductive Register where
  | cursorColumn
  | cursorLine
  | widthPx
  | heightPx
deriving DecidableEq, Repr

/-- What an unwritten register holds after the hardware reset done at this `tick` (R34, 93 U1; log 1). -/
opaque unwritten : Register → Nat → Byte

/-- `freeSourceByte tick a`: the byte at a source-memory address the host has not defined (R62, 93 U5; log 3). -/
opaque freeSourceByte : Nat → Addr → Byte

/-- `moduloZero n`: what `n mod 0` leaves, where R8 defines `mod` for a positive divisor only (log 16). -/
opaque moduloZero : Nat → Byte

/-- The controller's page pointer where the spec states none (R34, R71; logs 11, 12). -/
opaque freePage : Nat → Nibble

/-- The controller's column pointer where the spec states none (R34, R71, R72; logs 11, 12, 13). -/
opaque freeColumn : Nat → Byte

/-- Whether a hidden column stores a data byte (93 U3: "whether stored, not said"; log 13). -/
opaque freeStored : Nat → Bool

/-- Where a data byte lands, if it lands at all, that is sent past the last visible column or to a page the display
does not have (R72, 93 U2, U4; log 13). -/
opaque freeLanding : Nat → Option (Nibble × Byte)

end Sys2Proof.Config
end

