-- ==== Sys2Proof/Syntax.lean ====
section
/-!
DEFINITION. The instructions: one constructor for each mnemonic of spec/opcode_table.json (its rows that share a
mnemonic list one instruction by several bit patterns, R95 and R96; log 19). Requests are what the host sends the
block; the three output commands are what the block sends the display controller.
-/

namespace Sys2Proof

inductive Instr where
  /-- SETCURSOR column, line (R111). -/
  | setCursor (column line : Byte)
  /-- BEGIN (R120). -/
  | begin
  /-- CLEAR (R122). -/
  | clear
  /-- CLEARLINE (R124). -/
  | clearLine
  /-- HOME (R125). -/
  | home
  /-- WRITE of a rejected byte, 0x80..0xFF (R141). -/
  | writeReject (chr : Byte)
  /-- WRITE 0x0D (R143). -/
  | writeCr
  /-- WRITE 0x0A (R144). -/
  | writeNl
  /-- WRITE of a printable code, 0x20..0x7F (R145, R146). -/
  | writePrint (chr : Byte)
  /-- WRITE of a control code other than CR and NL (R145, R146). -/
  | writeCtrl (chr : Byte)
  /-- CREATECHAR with a code below 0x20: registers (R148). -/
  | createChar (code : Byte) (ptr : Addr)
  /-- CREATECHAR with a code of 0x20 or more: ignored (R148). -/
  | createCharIgnored (code : Byte) (ptr : Addr)
  /-- DRAWBITMAP ptr, columns, lines (R160). -/
  | drawBitmap (columns lines : Byte) (ptr : Addr)
  /-- DRAWCOLUMN lines, value (R170). -/
  | drawColumn (lines value : Byte)
  /-- PAGESEL, an output command (R91). -/
  | pageSel (page : Nibble)
  /-- COLHI, an output command (R92). -/
  | colHi (high : Nibble)
  /-- COLLO, an output command (R93). -/
  | colLo (low : Nibble)
deriving DecidableEq, Repr

/-- WRITE chr: the class of `chr` by the tests of R95, in their order. -/
def Instr.write (chr : Byte) : Instr :=
  if Config.rejectMin ≤ chr.toNat then .writeReject chr
  else if chr = Config.carriageReturn then .writeCr
  else if chr = Config.newline then .writeNl
  else if Config.space ≤ chr.toNat then .writePrint chr
  else .writeCtrl chr

/-- CREATECHAR code, ptr: the class of `code` (R96). -/
def Instr.create (code : Byte) (ptr : Addr) : Instr :=
  if code.toNat < Config.space then .createChar code ptr else .createCharIgnored code ptr

/-- The pseudo-operation PRINT of R97: one WRITE for each character, in order. -/
def Instr.print (text : List Byte) : List Instr :=
  text.map Instr.write

/-- The mnemonic in spec/opcode_table.json. -/
def Instr.mnemonic : Instr → String
  | .setCursor _ _ => "SETCURSOR"
  | .begin => "BEGIN"
  | .clear => "CLEAR"
  | .clearLine => "CLEARLINE"
  | .home => "HOME"
  | .writeReject _ => "WRITE.REJECT"
  | .writeCr => "WRITE.CR"
  | .writeNl => "WRITE.NL"
  | .writePrint _ => "WRITE.PRINT"
  | .writeCtrl _ => "WRITE.CTRL"
  | .createChar _ _ => "CREATECHAR"
  | .createCharIgnored _ _ => "CREATECHAR.IGNORED"
  | .drawBitmap _ _ _ => "DRAWBITMAP"
  | .drawColumn _ _ => "DRAWCOLUMN"
  | .pageSel _ => "PAGESEL"
  | .colHi _ => "COLHI"
  | .colLo _ => "COLLO"

/-- A mnemonic and its operands, as R97 writes them. -/
def operandText (mnemonic : String) (operands : List Nat) : String :=
  mnemonic ++ " " ++ ", ".intercalate (operands.map toString)

/-- The textual form of a request, R97: operands in the source's argument order, in decimal. The output commands are
no requests and R97 gives them no text. -/
def Instr.text : Instr → Option String
  | .setCursor column line => some (operandText "SETCURSOR" [column.toNat, line.toNat])
  | .begin => some "BEGIN"
  | .clear => some "CLEAR"
  | .clearLine => some "CLEARLINE"
  | .home => some "HOME"
  | .writeReject chr => some (operandText "WRITE" [chr.toNat])
  | .writeCr => some (operandText "WRITE" [Config.carriageReturn.toNat])
  | .writeNl => some (operandText "WRITE" [Config.newline.toNat])
  | .writePrint chr => some (operandText "WRITE" [chr.toNat])
  | .writeCtrl chr => some (operandText "WRITE" [chr.toNat])
  | .createChar code ptr => some (operandText "CREATECHAR" [code.toNat, ptr.toNat])
  | .createCharIgnored code ptr => some (operandText "CREATECHAR" [code.toNat, ptr.toNat])
  | .drawBitmap columns lines ptr =>
    some (operandText "DRAWBITMAP" [ptr.toNat, columns.toNat, lines.toNat])
  | .drawColumn lines value => some (operandText "DRAWCOLUMN" [lines.toNat, value.toNat])
  | .pageSel _ => none
  | .colHi _ => none
  | .colLo _ => none

end Sys2Proof
end

