-- ==== Sys2Proof/WellFormed.lean ====
section
/-!
DEFINITION. Which terms of `Instr` are instructions: the operand classes of R95 and R96 that the opcode table splits
WRITE and CREATECHAR by. Every other operand may have any value of its width (R83).
-/

namespace Sys2Proof

/-- The control class of R95: below 0x20 and neither NL nor CR. -/
def isControl (chr : Byte) : Bool :=
  decide (chr.toNat < Config.space) && chr != Config.carriageReturn && chr != Config.newline

def Instr.wf : Instr → Bool
  | .setCursor _ _ => true
  | .begin => true
  | .clear => true
  | .clearLine => true
  | .home => true
  | .writeReject chr => decide (Config.rejectMin ≤ chr.toNat)
  | .writeCr => true
  | .writeNl => true
  | .writePrint chr => decide (Config.space ≤ chr.toNat) && decide (chr.toNat < Config.rejectMin)
  | .writeCtrl chr => isControl chr
  | .createChar code _ => decide (code.toNat < Config.space)
  | .createCharIgnored code _ => decide (Config.space ≤ code.toNat)
  | .drawBitmap _ _ _ => true
  | .drawColumn _ _ => true
  | .pageSel _ => true
  | .colHi _ => true
  | .colLo _ => true

/-- The instructions that are requests (format REQ); the others are output commands (format OUTCMD). -/
def Instr.isRequest : Instr → Bool
  | .setCursor _ _ => true
  | .begin => true
  | .clear => true
  | .clearLine => true
  | .home => true
  | .writeReject _ => true
  | .writeCr => true
  | .writeNl => true
  | .writePrint _ => true
  | .writeCtrl _ => true
  | .createChar _ _ => true
  | .createCharIgnored _ _ => true
  | .drawBitmap _ _ _ => true
  | .drawColumn _ _ => true
  | .pageSel _ => false
  | .colHi _ => false
  | .colLo _ => false

end Sys2Proof
end

