-- ==== Sys2Proof/Decode.lean ====
section
/-!
DEFINITION. The two encodings of spec/30_encoding.md: the 40-bit request word (R82 to R85, R95, R96) and the 8-bit
output command (R91 to R93). Decoding is total and rejects by name; the encoder and the opcode table stand after it.
-/

namespace Sys2Proof

/-- An instruction's bits, in one of the two formats of the opcode table. -/
inductive Code where
  /-- Format REQ, 40 bits (R82). -/
  | request (w : Request)
  /-- Format OUTCMD, 8 bits (R96). -/
  | command (b : Byte)
deriving DecidableEq, Repr

/-- Why bits are no instruction. -/
inductive Reject where
  /-- `op` is 0x00 or 0x0A..0xFF, which select no operation (R87). -/
  | reservedOpcode (op : Byte)
  /-- A command byte that is none of the three addressing commands (R71: "Any other"). -/
  | otherCommand (b : Byte)
deriving DecidableEq, Repr

/-! ## The fields of a request word (R82) -/

def Request.op (w : Request) : Byte := w.extractLsb' 32 8
def Request.a (w : Request) : Byte := w.extractLsb' 24 8
def Request.b (w : Request) : Byte := w.extractLsb' 16 8
def Request.ptr (w : Request) : Addr := w.extractLsb' 0 16

/-- The word with these fields, most significant first (R82). -/
def Request.ofFields (op a b : Byte) (ptr : Addr) : Request := ((op ++ a) ++ b) ++ ptr

/-! ## Decoding -/

/-- R85: `op` alone picks the operation; R83 names the fields it uses; R95 and R96 split WRITE and CREATECHAR. -/
def decodeRequest (w : Request) : Except Reject Instr :=
  match (Request.op w).toNat with
  | 0x01 => .ok (.setCursor (Request.a w) (Request.b w))
  | 0x02 => .ok .begin
  | 0x03 => .ok .clear
  | 0x04 => .ok .clearLine
  | 0x05 => .ok .home
  | 0x06 => .ok (Instr.write (Request.a w))
  | 0x07 => .ok (Instr.create (Request.a w) (Request.ptr w))
  | 0x08 => .ok (.drawBitmap (Request.a w) (Request.b w) (Request.ptr w))
  | 0x09 => .ok (.drawColumn (Request.a w) (Request.b w))
  | _ => .error (.reservedOpcode (Request.op w))

/-- The command decoder of R71, on the high nibble. -/
def decodeCommand (b : Byte) : Except Reject Instr :=
  match (b.extractLsb' 4 4).toNat with
  | 0xB => .ok (.pageSel (b.extractLsb' 0 4))
  | 0x1 => .ok (.colHi (b.extractLsb' 0 4))
  | 0x0 => .ok (.colLo (b.extractLsb' 0 4))
  | _ => .error (.otherCommand b)

def decode : Code → Except Reject Instr
  | .request w => decodeRequest w
  | .command b => decodeCommand b

/-- The instruction of a row of spec/opcode_table.json whose bits are `w`: rows of format OUTCMD have 8 bits, rows of
format REQ have 40. -/
def decodeTableWord (nbits w : Nat) : Option Instr :=
  match decode (if nbits ≤ 8 then .command (BitVec.ofNat 8 w) else .request (BitVec.ofNat 40 w)) with
  | .ok i => some i
  | .error _ => none

/-! ## Encoding -/

/-- The bits of an instruction; a field the operation does not use is zero (R83: any value is legal there). -/
def encode : Instr → Code
  | .setCursor column line => .request (Request.ofFields 0x01 column line 0)
  | .begin => .request (Request.ofFields 0x02 0 0 0)
  | .clear => .request (Request.ofFields 0x03 0 0 0)
  | .clearLine => .request (Request.ofFields 0x04 0 0 0)
  | .home => .request (Request.ofFields 0x05 0 0 0)
  | .writeReject chr => .request (Request.ofFields 0x06 chr 0 0)
  | .writeCr => .request (Request.ofFields 0x06 Config.carriageReturn 0 0)
  | .writeNl => .request (Request.ofFields 0x06 Config.newline 0 0)
  | .writePrint chr => .request (Request.ofFields 0x06 chr 0 0)
  | .writeCtrl chr => .request (Request.ofFields 0x06 chr 0 0)
  | .createChar code ptr => .request (Request.ofFields 0x07 code 0 ptr)
  | .createCharIgnored code ptr => .request (Request.ofFields 0x07 code 0 ptr)
  | .drawBitmap columns lines ptr => .request (Request.ofFields 0x08 columns lines ptr)
  | .drawColumn lines value => .request (Request.ofFields 0x09 lines value 0)
  | .pageSel page => .command (0xB#4 ++ page)
  | .colHi high => .command (0x1#4 ++ high)
  | .colLo low => .command (0x0#4 ++ low)

/-! ## The opcode table of spec/opcode_table.json, as data -/

/-- One row: a word belongs to it when its bits under `mask` are `value` (the table's `match`). -/
structure TableRow where
  mnemonic : String
  value : Nat
  mask : Nat
deriving DecidableEq, Repr

def TableRow.covers (row : TableRow) (w : Nat) : Bool := w &&& row.mask == row.value

/-- The 23 rows of format REQ (R84, R95, R96). -/
def requestTable : List TableRow :=
  [⟨"SETCURSOR", 0x0100000000, 0xFF00000000⟩,
   ⟨"BEGIN", 0x0200000000, 0xFF00000000⟩,
   ⟨"CLEAR", 0x0300000000, 0xFF00000000⟩,
   ⟨"CLEARLINE", 0x0400000000, 0xFF00000000⟩,
   ⟨"HOME", 0x0500000000, 0xFF00000000⟩] ++
  [⟨"WRITE.REJECT", 0x0680000000, 0xFF80000000⟩,
   ⟨"WRITE.CR", 0x060D000000, 0xFFFF000000⟩,
   ⟨"WRITE.NL", 0x060A000000, 0xFFFF000000⟩,
   ⟨"WRITE.PRINT", 0x0620000000, 0xFFE0000000⟩,
   ⟨"WRITE.PRINT", 0x0640000000, 0xFFE0000000⟩,
   ⟨"WRITE.PRINT", 0x0660000000, 0xFFE0000000⟩] ++
  [⟨"WRITE.CTRL", 0x0600000000, 0xFFF8000000⟩,
   ⟨"WRITE.CTRL", 0x0608000000, 0xFFFE000000⟩,
   ⟨"WRITE.CTRL", 0x060B000000, 0xFFFF000000⟩,
   ⟨"WRITE.CTRL", 0x060C000000, 0xFFFF000000⟩,
   ⟨"WRITE.CTRL", 0x060E000000, 0xFFFE000000⟩,
   ⟨"WRITE.CTRL", 0x0610000000, 0xFFF0000000⟩] ++
  [⟨"CREATECHAR", 0x0700000000, 0xFFE0000000⟩,
   ⟨"CREATECHAR.IGNORED", 0x0720000000, 0xFFE0000000⟩,
   ⟨"CREATECHAR.IGNORED", 0x0740000000, 0xFFC0000000⟩,
   ⟨"CREATECHAR.IGNORED", 0x0780000000, 0xFF80000000⟩,
   ⟨"DRAWBITMAP", 0x0800000000, 0xFF00000000⟩,
   ⟨"DRAWCOLUMN", 0x0900000000, 0xFF00000000⟩]

/-- The three rows of format OUTCMD (R91 to R93). -/
def commandTable : List TableRow :=
  [⟨"PAGESEL", 0xB0, 0xF0⟩, ⟨"COLHI", 0x10, 0xF0⟩, ⟨"COLLO", 0x00, 0xF0⟩]

/-- The rows of the table a code's bits belong to. -/
def tableRows : Code → List TableRow
  | .request w => requestTable.filter (·.covers w.toNat)
  | .command b => commandTable.filter (·.covers b.toNat)

end Sys2Proof
end

