-- ==== Sys2Proof/Machine/State.lean ====
section
/-!
DEFINITION. The machine's state as plain data: the block (spec/10_state.md R20), its interface while an operation is
in progress (spec/30_encoding.md R81, R86, R88), the host (R13, R216, R217), and the sink (spec/20_memory.md R70);
its reasons to stop; and the state right after hardware reset (R34, R200).
-/

namespace Sys2Proof.Machine

/-- One event of OUT (R10). -/
inductive Event where
  /-- `Cmd(b)`: a command byte. -/
  | cmd (b : Byte)
  /-- `Data(b)`: a data byte. -/
  | data (b : Byte)
  /-- `Delay(ms)`: a pause; a marker in a model without time (R89; log 18). -/
  | delay (ms : Nat)
deriving DecidableEq, Repr

/-- What the host does between operations (R80, R200, R217; log 6). -/
inductive HostAction where
  /-- Issue a request word. -/
  | request (w : Request)
  /-- Write a byte of the source memory. -/
  | store (a : Addr) (b : Byte)
  /-- Apply hardware reset (log 22). -/
  | reset
deriving DecidableEq, Repr

/-- Bytes by address, in the form Memory.wf states; an address that is not listed has no stated value (logs 3, 11). -/
abbrev Memory := List Host.Cell

/-- The transport and display controller, by the reference model of R70. -/
structure Sink where
  /-- P, the page pointer. -/
  page : Nibble
  /-- C, the column pointer. -/
  column : Byte
  /-- `RAM[p][c]`, by `256 * p + c`. -/
  ram : Memory
deriving DecidableEq, Repr

structure State where
  /-- The biased column (R21). -/
  cursorColumn : Byte
  /-- The page index (R22). -/
  cursorLine : Byte
  /-- R23. -/
  widthPx : Byte
  /-- R24. -/
  heightPx : Byte
  /-- `slot[c]`: the pattern pointer where `slot[c].valid` is 1, none where it is 0 (R26; log 2). -/
  slots : Vector (Option Addr) 32
  /-- The events the sink has taken, oldest first; OUT is these and then `port` (R10, R65). -/
  delivered : List Event
  /-- The events at the output port that the sink has not taken, oldest first (R88). -/
  port : List Event
  /-- What the transport drives on `out_ready` at the coming steps in which the block offers it an event, next first;
  1 where nothing is listed (R88; log 4). -/
  outReady : List Bit
  /-- The `rsp_count` of the operation in progress (R86). -/
  response : Option Bit
  /-- The responses delivered in this run, oldest first (R216). -/
  responses : List Bit
  /-- The source-memory addresses read in this run, oldest first: the model's own trace (R12; log 24). -/
  reads : List Addr
  /-- What the host still does, next first (R216, R217). -/
  host : List HostAction
  /-- The bytes of source memory the host has defined (R50). -/
  mem : Memory
  /-- R70. -/
  sink : Sink
  /-- The counter the free values are applied to: the model's own field (log 26). -/
  tick : Nat
deriving DecidableEq, Repr

/-- The faults. There are none: "The block raises no exception" (R180), so nothing raises one. -/
inductive Fault
deriving DecidableEq, Repr

/-- The refusals. -/
inductive Refusal where
  /-- Raised by an arm of `exec` that has no meaning yet; no arm is one. Safe. -/
  | notModelled (mnemonic : String)
deriving DecidableEq, Repr

/-- The sink at a hardware reset: its pointer and RAM are "not the block's; unspecified" (R34; log 11). -/
def Sink.unspecified (tick : Nat) : Sink :=
  { page := Config.freePage tick, column := Config.freeColumn tick, ram := [] }

/-- R34, R200: every slot invalid, the four registers unwritten (log 1), OUT empty, ready for a request; the host has
nothing to do yet (log 6) and has defined no byte of its memory (log 3). -/
def State.reset : State where
  cursorColumn := Config.unwritten .cursorColumn 0
  cursorLine := Config.unwritten .cursorLine 0
  widthPx := Config.unwritten .widthPx 0
  heightPx := Config.unwritten .heightPx 0
  slots := Vector.replicate 32 none
  delivered := []
  port := []
  outReady := []
  response := none
  responses := []
  reads := []
  host := []
  mem := []
  sink := Sink.unspecified 0
  tick := 0

end Sys2Proof.Machine
end

