-- ==== Sys2Proof/Machine/Flags.lean ====
section
/-!
DEFINITION. The hardware has no flags (R30). Its one status value is the response `rsp_count`, which is delivered and
not stored: this file says which count an operation responds with (R86, R141, R142).
-/

namespace Sys2Proof.Machine

/-- The response of every operation but WRITE, of a reserved opcode, and of a rejected WRITE (R86, R87, R141). -/
def notConsumed : Bit := 0

/-- The response of an accepted WRITE: it consumed one byte (R142). -/
def consumed : Bit := 1

/-- The operation ends: its response waits to be delivered once its events are transmitted (R81, R86). -/
def respond (count : Bit) (s : State) : State := { s with response := some count }

end Sys2Proof.Machine
end

