-- ==== Sys2Proof/Machine/Operands.lean ====
section
/-!
DEFINITION. Every operand transformation of R94: the biased column, the two column nibbles and the three addressing
bytes, the glyph table's index, slot index and source-memory addresses; the fixed event sequences; and the two
integer reductions the pseudocode uses (R8). No operand is signed, scaled or shifted (R83).
-/

namespace Sys2Proof.Machine

/-- `cc = u8(column + 4)` (R94, R111). -/
def biasedColumn (column : Byte) : Byte := u8 (column.toNat + Config.bias)

/-- Logical column 0, biased (R122 to R125, R143). -/
def homeColumn : Byte := u8 Config.bias

/-! ## The addressing bytes -/

/-- PAGESEL: `u8(0xB0 + ln)`, an arithmetic sum (R91). -/
def pageSelByte (line : Byte) : Byte := u8 (Config.pageCmd + line.toNat)

/-- COLHI: `0x10 + cc[7:4]`, with `cc[7:4] = cc div 16` (R92, R94). -/
def colHiByte (column : Byte) : Byte := u8 (Config.colHiCmd + column.toNat / 16)

/-- COLLO: `cc[3:0] = cc mod 16` (R93, R94). -/
def colLoByte (column : Byte) : Byte := u8 (column.toNat % 16)

/-- The three commands of a Seek, in their fixed order (R110). -/
def seekEvents (column line : Byte) : List Event :=
  [.cmd (pageSelByte line), .cmd (colHiByte column), .cmd (colLoByte column)]

/-! ## INIT_SEQ -/

/-- The commands of the steps before the tail (R7, R120; log 9). -/
def initSteps : List Byte :=
  Config.initReset ++ Config.initScanDirection ++ Config.initBias ++ Config.initPower ++ Config.initContrast

/-- INIT_SEQ: "..., display-enable command, `Delay(100)`, all-pixels-on command, `Delay(200)`, normal-display command"
(R7, R120; log 9). -/
def initSeq : List Event :=
  initSteps.map Event.cmd
  ++ [.cmd Config.initDisplayEnable, .delay Config.delayA, .cmd Config.initAllPixelsOn, .delay Config.delayB, .cmd Config.initNormalDisplay]

/-! ## Glyphs -/

/-- `GLYPH_ROM[i][k]`: entry 0 is all zero, the others are as supplied (R7, R51; log 10). -/
def glyphRom (entry k : Nat) : Byte := if entry = 0 then 0 else Config.glyphPattern entry k

/-- The five bytes of an entry, in emission order (R145). -/
def romPattern (entry : Nat) : List Byte := (List.range Config.glyphCols).map (glyphRom entry)

/-- `chr - 0x20` (R94, R145). -/
def glyphIndex (chr : Byte) : Nat := chr.toNat - Config.space

/-! ## Source-memory addresses -/

/-- `u16(ptr + d)` (R59, R94). -/
def addressAt (ptr : Addr) (offset : Nat) : Addr := u16 (ptr.toNat + offset)

/-- The addresses of a registered pattern, ascending (R145). -/
def patternAddrs (ptr : Addr) : List Addr := (List.range Config.glyphCols).map (addressAt ptr)

/-- The addresses of the first `shown` bytes of bitmap row `r`: the stride is the unclipped `columns` (R55, R164). -/
def rowAddrs (ptr : Addr) (columns r shown : Nat) : List Addr :=
  (List.range shown).map fun x => addressAt ptr (r * columns + x)

/-! ## Integer reductions -/

/-- `a mod b` into an 8-bit register (R8). R8 defines it for `b > 0`; for 0 it is a free value (log 16). -/
def modulo (a : Nat) (b : Byte) : Byte := if b = 0 then Config.moduloZero a else u8 (a % b.toNat)

/-- Clipping `count` items that begin at `start` to `edge` (R161); the subtraction stops at 0, which is R161's
`max(0, ...)`. -/
def clip (start count edge : Nat) : Nat := if start + count ≤ edge then count else edge - start

end Sys2Proof.Machine
end

