-- ==== Sys2Proof/Machine/Ops.lean ====
section
/-!
DEFINITION. The named operations over memory, registers and the output port, which every meaning is written over.
Taking an exception and returning from one are not among them: the block has no exception, no trap entry and no trap
return (R180, R185, R186).
-/

namespace Sys2Proof.Machine

/-! ## Memory: bytes by address, in one canonical form -/

/-- The addresses rise strictly. -/
def Memory.rising : Memory → Bool
  | [] => true
  | [_] => true
  | c :: d :: m => decide (c.1 < d.1) && Memory.rising (d :: m)

/-- The canonical form of a memory of `size` bytes. An unlisted address has no stated value, which no entry can
equal, so the form asks no more. -/
def Memory.wfIn (size : Nat) (m : Memory) : Bool := Memory.rising m && m.all fun c => decide (c.1 < size)

/-- The canonical form of the source memory, 65,536 bytes (R50). -/
def Memory.wf (m : Memory) : Bool := Memory.wfIn 65536 m

/-- The byte stated for an address; none where nothing is. -/
def Memory.lookup : Memory → Nat → Option Byte
  | [], _ => none
  | c :: m, a => if c.1 = a then some c.2 else Memory.lookup m a

/-- Store one byte. -/
def Memory.write : Memory → Nat → Byte → Memory
  | [], a, b => [(a, b)]
  | c :: m, a, b =>
    if a < c.1 then (a, b) :: c :: m
    else if a = c.1 then (a, b) :: m
    else c :: Memory.write m a b

/-- `MemRead(a, 1)` (R11, R62): the host's byte, or any value where the host has defined none (log 3). -/
def State.sourceByte (s : State) (a : Addr) : Byte :=
  match Memory.lookup s.mem a.toNat with
  | some b => b
  | none => Config.freeSourceByte s.tick a

/-! ## The block's registers -/

/-- `cursorColumn <- column`, `cursorLine <- line` (R110). -/
def setCursor (column line : Byte) (s : State) : State := { s with cursorColumn := column, cursorLine := line }

/-- `widthPx <- width`, `heightPx <- height` (R120). -/
def setGeometry (width height : Byte) (s : State) : State := { s with widthPx := width, heightPx := height }

/-- `slot[c]`: its pointer where it is valid (R26). A code above 31 has no slot. -/
def State.slot (s : State) (c : Byte) : Option Addr := s.slots[c.toNat]?.getD none

/-- `slot[c].valid <- 1`, `slot[c].ptr <- ptr`, for `c < 0x20` only (R27, R148). -/
def registerGlyph (c : Byte) (ptr : Addr) (s : State) : State :=
  if c.toNat < Config.space then { s with slots := s.slots.setIfInBounds c.toNat (some ptr) } else s

/-! ## The output port -/

/-- OUT: every event emitted since hardware reset, oldest first (R10, R216). -/
def State.out (s : State) : List Event := s.delivered ++ s.port

/-- `out_dc` and `out_byte` (R89); a delay is not carried on the port. -/
def Event.outPort : Event → Option (Bit × Byte)
  | .cmd b => some (0, b)
  | .data b => some (1, b)
  | .delay _ => none

/-- Append events to OUT (R10). -/
def emit (events : List Event) (s : State) : State := { s with port := s.port ++ events }

/-- `n x Data(0x00)` (R10). -/
def emitZeros (n : Nat) (s : State) : State := emit (List.replicate n (.data 0)) s

/-- Data bytes, in order. -/
def emitBytes (bytes : List Byte) (s : State) : State := emit (bytes.map Event.data) s

/-- `Data(MemRead(a, 1))` for each address, in order (R145, R160). -/
def copySource (addrs : List Addr) (s : State) : State :=
  emitBytes (addrs.map s.sourceByte) { s with reads := s.reads ++ addrs }

/-- Seek(cc, ln) (R110). -/
def seek (column line : Byte) (s : State) : State := emit (seekEvents column line) (setCursor column line s)

/-- A reserved opcode: the request completes at once, with nothing changed (R87; log 8). -/
def completeReserved (s : State) : State := respond notConsumed s

/-! ## Between operations -/

/-- `req_ready` (R81, R86): no event waits at the port and no response is due. -/
def State.ready (s : State) : Bool := s.port.isEmpty && s.response.isNone

/-- The transport keeps `out_ready` at 0 while the block offers it event `e` (R88). -/
def State.held (e : Event) (s : State) : Bool := e.outPort.isSome && s.outReady.head? == some 0

/-- The block waits for the transport "without changing state" (R88). -/
def waitForTransport (s : State) : State := { s with outReady := s.outReady.tail }

/-- `out_ready` after the transport has taken an event; a delay is not offered to it (R88). -/
def readyAfter (e : Event) (ready : List Bit) : List Bit := if e.outPort.isSome then ready.tail else ready

/-- The sink takes the event at the head of the port (R65, R88). -/
def takeEvent (e : Event) (rest : List Event) (s : State) : State :=
  { s with
    delivered := s.delivered ++ [e]
    port := rest
    outReady := readyAfter e s.outReady
    tick := s.tick + 1 }

/-- The response is delivered (R86). -/
def deliverResponse (count : Bit) (s : State) : State :=
  { s with response := none, responses := s.responses ++ [count] }

/-- The host's next action is taken off its list. -/
def takeAction (rest : List HostAction) (s : State) : State := { s with host := rest, tick := s.tick + 1 }

/-- The host writes a byte of source memory (R217). -/
def storeSource (a : Addr) (b : Byte) (s : State) : State := { s with mem := Memory.write s.mem a.toNat b }

/-- Hardware reset during a machine's life (R34, R200; log 22): the block and its run begin again; the host's memory
and its remaining actions are the host's, and the controller is unspecified. -/
def hardwareReset (s : State) : State :=
  { s with
    cursorColumn := Config.unwritten .cursorColumn s.tick
    cursorLine := Config.unwritten .cursorLine s.tick
    widthPx := Config.unwritten .widthPx s.tick
    heightPx := Config.unwritten .heightPx s.tick
    slots := Vector.replicate 32 none
    delivered := []
    port := []
    response := none
    responses := []
    reads := []
    sink := Sink.unspecified s.tick }

end Sys2Proof.Machine
end

