-- ==== Sys2Proof/Machine/Addressing.lean ====
section
/-!
DEFINITION. SETCURSOR (spec/40_addressing.md).
-/

namespace Sys2Proof.Machine

/-- R111. -/
def execSetCursor (column line : Byte) (s : State) : Host.Outcome State Fault Refusal :=
  .next (respond notConsumed (seek (biasedColumn column) line s))

end Sys2Proof.Machine
end

