-- ==== Sys2Proof/Machine/Bitmap.lean ====
section
/-!
DEFINITION. DRAWBITMAP (spec/43_bitmap.md).
-/

namespace Sys2Proof.Machine

/-- `clipw(sc, columns)` (R161): against `widthPx`, measured from the biased column. -/
def clippedWidth (columns : Byte) (s : State) : Nat := clip s.cursorColumn.toNat columns.toNat s.widthPx.toNat

/-- `cliph(sl, lines)` (R161): against `heightPx div 8`. -/
def clippedHeight (lines : Byte) (s : State) : Nat :=
  clip s.cursorLine.toNat lines.toNat (s.heightPx.toNat / Config.pageRows)

/-- Row `r` of the blit from `(sc, sl)`: its Seek, then its `mx` bytes (R160, R164). -/
def blitRow (ptr : Addr) (columns sc sl : Byte) (mx : Nat) (s : State) (r : Nat) : State :=
  copySource (rowAddrs ptr columns.toNat r mx) (seek sc (u8 (sl.toNat + r)) s)

/-- R160, R163. -/
def execDrawBitmap (columns lines : Byte) (ptr : Addr) (s : State) : Host.Outcome State Fault Refusal :=
  let sc := s.cursorColumn
  let sl := s.cursorLine
  let mx := clippedWidth columns s
  let my := clippedHeight lines s
  let drawn := (List.range my).foldl (blitRow ptr columns sc sl mx) s
  .next (respond notConsumed (seek (u8 (sc.toNat + columns.toNat)) sl drawn))

end Sys2Proof.Machine
end

