-- ==== Sys2Proof/Machine/Character.lean ====
section
/-!
DEFINITION. WRITE in its five operand classes, and CREATECHAR (spec/42_character.md).
-/

namespace Sys2Proof.Machine

/-- R145: select the pattern of `chr` and emit its five bytes, a registered pattern from source memory now. -/
def drawPattern (chr : Byte) (s : State) : State :=
  if Config.space ≤ chr.toNat then emitBytes (romPattern (glyphIndex chr)) s
  else
    match s.slot chr with
    | some ptr => copySource (patternAddrs ptr) s
    | none => emitBytes (romPattern 0) s

/-- R146: the line after a column that wrapped to 0, modulo `heightPx div 9 + 1` (R25). -/
def nextTextLine (line height : Byte) : Byte := u8 ((line.toNat + 1) % (height.toNat / Config.wrapDiv + 1))

/-- R146: the cursor advance; no command is emitted. -/
def advanceCursor (s : State) : State :=
  let column := modulo (s.cursorColumn.toNat + Config.cellCols) s.widthPx
  setCursor column (if column = 0 then nextTextLine s.cursorLine s.heightPx else s.cursorLine) s

/-- WRITE_GLYPH (R146): the pattern, the spacer column, the advance. -/
def writeGlyph (chr : Byte) (s : State) : State := advanceCursor (emitZeros 1 (drawPattern chr s))

/-- R141. -/
def execWriteReject (_chr : Byte) (s : State) : Host.Outcome State Fault Refusal :=
  .next (respond notConsumed s)

/-- R143. -/
def execWriteCr (s : State) : Host.Outcome State Fault Refusal :=
  .next (respond consumed (seek homeColumn s.cursorLine s))

/-- R144: the stored column is sent as it is, and the line has no modulus. -/
def execWriteNl (s : State) : Host.Outcome State Fault Refusal :=
  .next (respond consumed (seek s.cursorColumn (u8 (s.cursorLine.toNat + 1)) s))

/-- R145, R146. -/
def execWritePrint (chr : Byte) (s : State) : Host.Outcome State Fault Refusal :=
  .next (respond consumed (writeGlyph chr s))

/-- R145, R146. -/
def execWriteCtrl (chr : Byte) (s : State) : Host.Outcome State Fault Refusal :=
  .next (respond consumed (writeGlyph chr s))

/-- R148: the reference is stored; the pattern is not read. -/
def execCreateChar (code : Byte) (ptr : Addr) (s : State) : Host.Outcome State Fault Refusal :=
  .next (respond notConsumed (registerGlyph code ptr s))

/-- R148: "silently ignored for code ≥ space". -/
def execCreateCharIgnored (_code : Byte) (_ptr : Addr) (s : State) : Host.Outcome State Fault Refusal :=
  .next (respond notConsumed s)

end Sys2Proof.Machine
end

