-- ==== Sys2Proof/Machine/ColumnBar.lean ====
section
/-!
DEFINITION. DRAWCOLUMN (spec/44_column_bar.md).
-/

namespace Sys2Proof.Machine

/-- R: the region's height in pixels (R170). -/
def barRegion (lines : Byte) : Nat := lines.toNat * Config.pageRows

/-- v: the clamped value (R171). -/
def barHeight (lines value : Byte) : Nat := min value.toNat (barRegion lines)

/-- mark (R172): the division truncates toward zero, so that a full bar's -1 gives 0. -/
def barMark (lines value : Byte) : Nat :=
  (((barRegion lines : Int) - 1 - (barHeight lines value : Int)).tdiv (Config.pageRows : Int)).toNat

/-- n: the shift count (R173). -/
def barShift (lines value : Byte) : Nat :=
  barRegion lines - barMark lines value * Config.pageRows - barHeight lines value

/-- b: the mark page's byte, `u8(0xFF << n)` (R173). -/
def barByte (lines value : Byte) : Byte := u8 (0xFF <<< barShift lines value)

/-- One page of the region: its Seek, then one byte (R170). -/
def barPage (sc sl b : Byte) (s : State) (p : Nat) : State := emitBytes [b] (seek sc (u8 (sl.toNat + p)) s)

/-- R170, R175: the empty pages above the mark, the mark page, the full pages below it, in ascending page order. The
mark page is written for `lines` = 0 too (R176). -/
def execDrawColumn (lines value : Byte) (s : State) : Host.Outcome State Fault Refusal :=
  let sc := s.cursorColumn
  let sl := s.cursorLine
  let mark := barMark lines value
  let above := (List.range mark).foldl (barPage sc sl 0x00) s
  let marked := barPage sc sl (barByte lines value) above mark
  let below := (List.range' (mark + 1) (lines.toNat - (mark + 1))).foldl (barPage sc sl 0xFF) marked
  .next (respond notConsumed (seek (u8 (sc.toNat + 1)) sl below))

end Sys2Proof.Machine
end

