-- ==== Sys2Proof/Machine/Display.lean ====
section
/-!
DEFINITION. The sink's reaction to the events of OUT: the reference model of spec/20_memory.md R70 to R72, and the
meanings of the three output commands, which the display controller executes (R71, R91 to R93). No meaning of a
request reads the sink (log 14).
-/

namespace Sys2Proof.Machine

/-- The key of `RAM[p][c]`. -/
def ramKey (page : Nibble) (column : Byte) : Nat := 256 * page.toNat + column.toNat

/-- `RAM[p][c]`, none where the spec states no value (R72). -/
def Sink.ramAt (k : Sink) (page : Nibble) (column : Byte) : Option Byte := Memory.lookup k.ram (ramKey page column)

/-- `RAM[p][c] <- b`. -/
def Sink.storeAt (page : Nibble) (column b : Byte) (k : Sink) : Sink :=
  { k with ram := Memory.write k.ram (ramKey page column) b }

/-- "Only p in 0..7 and c in 4..131 are visible" (R70). -/
def visible (page : Nibble) (column : Byte) : Bool :=
  decide (page.toNat < 8) && decide (4 ≤ column.toNat) && decide (column.toNat ≤ 131)

/-- `P <- b[3:0]` (R71). The column is left as it is (PRESUMED by the spec, 93 K4; log 15). -/
def Sink.selectPage (page : Nibble) (k : Sink) : Sink := { k with page := page }

/-- `C[7:4] <- b[3:0]` (R71; log 15). -/
def Sink.setColumnHigh (high : Nibble) (k : Sink) : Sink := { k with column := high ++ k.column.extractLsb' 0 4 }

/-- `C[3:0] <- b[3:0]` (R71; log 15). -/
def Sink.setColumnLow (low : Nibble) (k : Sink) : Sink := { k with column := k.column.extractLsb' 4 4 ++ low }

/-- The "non-visible driver columns" (R14) before the first visible one, on a page of the display. -/
def hidden (page : Nibble) (column : Byte) : Bool := decide (page.toNat < 8) && decide (column.toNat < 4)

/-- Where a data byte lands: `RAM[P][C]` (R71) in the visible area; there or nowhere in a hidden column (93 U3);
elsewhere anywhere or nowhere (R72, 93 U2, U4; log 13). -/
def Sink.landing (tick : Nat) (k : Sink) : Option (Nibble × Byte) :=
  if visible k.page k.column then some (k.page, k.column)
  else if hidden k.page k.column then (if Config.freeStored tick then some (k.page, k.column) else none)
  else Config.freeLanding tick

/-- The column pointer after a data byte: `C + 1` while a further visible column is known to exist (R71), free past
the last one (R72; log 13). -/
def Sink.nextColumn (tick : Nat) (k : Sink) : Byte :=
  if k.column.toNat < 131 then u8 (k.column.toNat + 1) else Config.freeColumn tick

/-- `Data(d)` (R71). DESIGN CHOICE (log 29): it is stored as R71 says also before the first BEGIN and its INIT_SEQ,
where R202 and 93 U11, U15 leave open what the display does. DESIGN CHOICE (log 31): the page pointer stays, also at and
past the last visible column, where 91 N4 leaves open that the pointer goes on to the next page. -/
def Sink.acceptData (tick : Nat) (d : Byte) (k : Sink) : Sink :=
  let stored :=
    match k.landing tick with
    | some (page, column) => k.storeAt page column d
    | none => k
  { stored with column := k.nextColumn tick }

/-- "Any other `Cmd(b)`: effect not in the source" (R71): the pointer is free and no byte of RAM has a stated value
(log 12). -/
def Sink.otherCommand (tick : Nat) (_k : Sink) : Sink := Sink.unspecified tick

/-! ## Pixels -/

/-- Pixel (x, y) of the visible area: bit `y mod 8` of the byte at page `y div 8`, controller column `x + 4`; true is
lit (R56). None outside the area, and where the byte has no stated value. DESIGN CHOICE (log 29): no BEGIN is asked for
before a pixel shows its byte (R202, 93 U11, U15). DESIGN CHOICE (log 30): the mapping from RAM to glass is R56's after
every command, where R72 does not say what an INIT_SEQ command does to it (scan direction, start line, inversion). -/
def Sink.pixel (k : Sink) (x y : Nat) : Option Bool :=
  if x < Config.lineFill ∧ y < Config.height.toNat then
    (k.ramAt (BitVec.ofNat 4 (y / Config.pageRows)) (u8 (x + Config.bias))).map
      fun b => b.getLsbD (y % Config.pageRows)
  else none

/-- The controller's pointer is where the block's cursor says (R32). -/
def State.inStep (s : State) : Bool :=
  decide (s.sink.page.toNat = s.cursorLine.toNat) && s.sink.column == s.cursorColumn

/-! ## The output commands -/

/-- PAGESEL (R71, R91). -/
def execPageSel (page : Nibble) (s : State) : Host.Outcome State Fault Refusal :=
  .next { s with sink := s.sink.selectPage page }

/-- COLHI (R71, R92). -/
def execColHi (high : Nibble) (s : State) : Host.Outcome State Fault Refusal :=
  .next { s with sink := s.sink.setColumnHigh high }

/-- COLLO (R71, R93). -/
def execColLo (low : Nibble) (s : State) : Host.Outcome State Fault Refusal :=
  .next { s with sink := s.sink.setColumnLow low }

/-! ## The other events -/

/-- `Data(d)` reaches the sink. -/
def acceptData (d : Byte) (s : State) : State := { s with sink := s.sink.acceptData s.tick d }

/-- A command that is none of the three reaches the sink. -/
def acceptOther (s : State) : State := { s with sink := s.sink.otherCommand s.tick }

end Sys2Proof.Machine
end

