-- ==== Sys2Proof/Machine/InitClear.lean ====
section
/-!
DEFINITION. BEGIN, CLEAR, CLEARLINE and HOME (spec/41_init_clear.md).
-/

namespace Sys2Proof.Machine

/-- One page of CLEAR: `Seek(4, p)`, then 132 zero bytes (R122). -/
def clearPage (s : State) (page : Nat) : State := emitZeros Config.clearFill (seek homeColumn (u8 page) s)

/-- The events and register writes of CLEAR (R122). -/
def clearDisplay (s : State) : State :=
  seek homeColumn 0 ((List.range Config.clearPages).foldl clearPage s)

/-- R120. The slots are not touched (R121); pin and bus-mode configuration is outside the block. -/
def execBegin (s : State) : Host.Outcome State Fault Refusal :=
  let initialised := setCursor homeColumn 0 (setGeometry Config.width Config.height (emit initSeq s))
  .next (respond notConsumed (clearDisplay initialised))

/-- R122. -/
def execClear (s : State) : Host.Outcome State Fault Refusal :=
  .next (respond notConsumed (clearDisplay s))

/-- R124. -/
def execClearLine (s : State) : Host.Outcome State Fault Refusal :=
  let ln := s.cursorLine
  .next (respond notConsumed (seek homeColumn ln (emitZeros Config.lineFill (seek homeColumn ln s))))

/-- R125. -/
def execHome (s : State) : Host.Outcome State Fault Refusal :=
  .next (respond notConsumed (seek homeColumn s.cursorLine s))

end Sys2Proof.Machine
end

