-- ==== Sys2Proof/Machine/Dispatch.lean ====
section
/-!
DEFINITION. One arm for each constructor of Instr: a direct call of its meaning.
-/

namespace Sys2Proof.Machine

def exec (i : Instr) (s : State) : Host.Outcome State Fault Refusal :=
  match i with
  | .setCursor column line => Sys2Proof.Machine.execSetCursor column line s
  | .begin => Sys2Proof.Machine.execBegin s
  | .clear => Sys2Proof.Machine.execClear s
  | .clearLine => Sys2Proof.Machine.execClearLine s
  | .home => Sys2Proof.Machine.execHome s
  | .writeReject chr => Sys2Proof.Machine.execWriteReject chr s
  | .writeCr => Sys2Proof.Machine.execWriteCr s
  | .writeNl => Sys2Proof.Machine.execWriteNl s
  | .writePrint chr => Sys2Proof.Machine.execWritePrint chr s
  | .writeCtrl chr => Sys2Proof.Machine.execWriteCtrl chr s
  | .createChar code ptr => Sys2Proof.Machine.execCreateChar code ptr s
  | .createCharIgnored code ptr => Sys2Proof.Machine.execCreateCharIgnored code ptr s
  | .drawBitmap columns lines ptr => Sys2Proof.Machine.execDrawBitmap columns lines ptr s
  | .drawColumn lines value => Sys2Proof.Machine.execDrawColumn lines value s
  | .pageSel page => Sys2Proof.Machine.execPageSel page s
  | .colHi high => Sys2Proof.Machine.execColHi high s
  | .colLo low => Sys2Proof.Machine.execColLo low s

end Sys2Proof.Machine
end

