-- ==== Sys2Proof/Machine/Transport.lean ====
section
/-!
DEFINITION. How an event looks at the output port (spec/30_encoding.md R88, R89) and on the transport's lines (R57,
R90): functions of the event, since the transport is outside the block and its lines are no state of the block
(R4; log 23).
-/

namespace Sys2Proof.Machine

/-- What the transport does on its lines, in order. Clock polarity, phase and rate are not in the source (R90). -/
inductive LineAction where
  /-- Set the command/data-select line: 0 is low, a command. -/
  | commandSelect (level : Bit)
  /-- Drive the select line: 0 is low, selected. -/
  | select (level : Bit)
  /-- Put a bit on the data line for one clock pulse. -/
  | shiftOut (bit : Bit)
deriving DecidableEq, Repr

/-- "bit 7 first down to bit 0" (R57, R90). -/
def serialBits (b : Byte) : List Bit := (List.range 8).map fun i => b.extractLsb' (7 - i) 1

/-- One framed transfer (R90). -/
def Event.frame (e : Event) : List LineAction :=
  match e.outPort with
  | some (dc, b) => [.commandSelect dc, .select 0] ++ (serialBits b).map LineAction.shiftOut ++ [.select 1]
  | none => []

/-- The line activity of the events the sink has taken (R65, R90). -/
def State.lineTrace (s : State) : List LineAction := s.delivered.flatMap Event.frame

end Sys2Proof.Machine
end

