-- ==== Sys2Proof/Machine/Agents.lean ====
section
/-!
DEFINITION. What the sink does with an event and the host with its next action: the two decoders in front of exec.
-/

namespace Sys2Proof.Machine

/-- The sink reacts to an event it has taken (R71): a command byte it decodes is executed, and a delay has no effect
on P, C or RAM. DESIGN CHOICE (log 28): that holds for a byte of INIT_SEQ too, so one in 0x00..0x1F or 0xB0..0xBF is
executed as COLLO, COLHI or PAGESEL, where R71 says that the effect of the INIT_SEQ commands is not in the source. -/
def sinkReact (e : Event) (s : State) : Host.Outcome State Fault Refusal :=
  match e with
  | .cmd b =>
    match decode (.command b) with
    | .ok i => exec i s
    | .error _ => .next (acceptOther s)
  | .data d => .next (acceptData d s)
  | .delay _ => .next s

/-- The block takes a request word (R80, R85); a reserved opcode completes at once (R87). -/
def issueRequest (w : Request) (s : State) : Host.Outcome State Fault Refusal :=
  match decode (.request w) with
  | .ok i => exec i s
  | .error _ => .next (completeReserved s)

/-- The host's action happens (R80, R200, R217). -/
def hostAct (act : HostAction) (s : State) : Host.Outcome State Fault Refusal :=
  match act with
  | .request w => issueRequest w s
  | .store a b => .next (storeSource a b s)
  | .reset => .next (hardwareReset s)

/-- The state in which the block takes request word `w` next: nothing waits at the port and no response is due. -/
def withRequest (w : Request) (s : State) : State :=
  { s with port := [], response := none, host := .request w :: s.host }

/-- The state in which the sink takes command byte `b` next: the transport is ready. -/
def withCommand (b : Byte) (s : State) : State := { s with port := .cmd b :: s.port, outReady := [] }

end Sys2Proof.Machine
end

