-- ==== Sys2Proof/Machine/Step.lean ====
section
/-!
DEFINITION. One step of the machine, and the state that fetches a given instruction next.
-/

namespace Sys2Proof.Machine

/-- If an event waits at the port, the sink takes it, or the block waits for the transport (R65, R88); else a due
response is delivered (R86); else the host's next action happens (R81, R217); else the machine is idle (R200; log 7). -/
def step (s : State) : Host.Outcome State Fault Refusal :=
  match s.port with
  | e :: events => if s.held e then .next (waitForTransport s) else sinkReact e (takeEvent e events s)
  | [] =>
    match s.response with
    | some count => .next (deliverResponse count s)
    | none =>
      match s.host with
      | act :: rest => hostAct act (takeAction rest s)
      | [] => .next s

/-- `s` with an instruction where the next step fetches it: an output command (8 bits) at the head of the port, a
request (40 bits) as the host's next action at a ready block (log 6). -/
def State.withFetchWord (s : State) (nbits w : Nat) : State :=
  if nbits ≤ 8 then withCommand (BitVec.ofNat 8 w) s else withRequest (BitVec.ofNat 40 w) s

end Sys2Proof.Machine
end

