-- ==== Sys2Proof/Safety.lean ====
section
/-!
DEFINITION. What a safe run is, in the terms the statements use: the machine has no fault, so safety here is that the
host keeps the duties of spec/70_reset_and_hazards.md (R202, R204 to R208) and that the state is in the form every
step keeps.
-/

namespace Sys2Proof.Machine

/-- "BEGIN has completed" as far as a state shows it (R36, R202): the geometry is the one BEGIN writes. -/
def State.initialised (s : State) : Bool := s.widthPx == Config.width && s.heightPx == Config.height

/-- The cursor is inside the ranges the source states for it (R36). -/
def State.cursorInRange (s : State) : Bool := decide (s.cursorColumn.toNat < 128) && decide (s.cursorLine.toNat < 8)

/-- The form of a state that every step keeps: both memories canonical, and events wait at the port only while their
operation's response is due (R81, R86). -/
def State.wf (s : State) : Bool :=
  Memory.wf s.mem && Memory.wfIn 4096 s.sink.ram && (s.port.isEmpty || s.response.isSome)

/-- The request reads `widthPx` or `heightPx` (R202). -/
def readsGeometry : Instr → Bool
  | .setCursor _ _ => false
  | .begin => false
  | .clear => false
  | .clearLine => false
  | .home => false
  | .writeReject _ => false
  | .writeCr => false
  | .writeNl => false
  | .writePrint _ => true
  | .writeCtrl _ => true
  | .createChar _ _ => false
  | .createCharIgnored _ _ => false
  | .drawBitmap _ _ _ => true
  | .drawColumn _ _ => false
  | .pageSel _ => false
  | .colHi _ => false
  | .colLo _ => false

/-- The request reads `cursorColumn` or `cursorLine` (R202). -/
def readsCursor : Instr → Bool
  | .setCursor _ _ => false
  | .begin => false
  | .clear => false
  | .clearLine => true
  | .home => true
  | .writeReject _ => false
  | .writeCr => true
  | .writeNl => true
  | .writePrint _ => true
  | .writeCtrl _ => true
  | .createChar _ _ => false
  | .createCharIgnored _ _ => false
  | .drawBitmap _ _ _ => true
  | .drawColumn _ _ => true
  | .pageSel _ => false
  | .colHi _ => false
  | .colLo _ => false

/-- The host's duties for one request that R36 names (R204, R207, and R205 for NL): no SETCURSOR beyond column 123 or
line 7, no NL on line 7, no DRAWBITMAP or DRAWCOLUMN that moves the cursor past column 127. -/
def dutiful (i : Instr) (s : State) : Bool :=
  match i with
  | .setCursor column line => decide (column.toNat ≤ 123) && decide (line.toNat ≤ 7)
  | .begin => true
  | .clear => true
  | .clearLine => true
  | .home => true
  | .writeReject _ => true
  | .writeCr => true
  | .writeNl => decide (s.cursorLine.toNat < 7)
  | .writePrint _ => true
  | .writeCtrl _ => true
  | .createChar _ _ => true
  | .createCharIgnored _ _ => true
  | .drawBitmap columns _ _ => decide (s.cursorColumn.toNat + columns.toNat ≤ 127)
  | .drawColumn _ _ => decide (s.cursorColumn.toNat + 1 ≤ 127)
  | .pageSel _ => true
  | .colHi _ => true
  | .colLo _ => true

/-- The host's other duty of R205: a bar's region ends inside the display's pages. -/
def regionFits (lines : Byte) (s : State) : Bool := decide (s.cursorLine.toNat + lines.toNat ≤ 8)

/-- The request is a glyph WRITE whose advance reaches the right edge, after which the controller's pointer is no
longer at the cursor (R32, R206). -/
def leavesStep (i : Instr) (s : State) : Bool :=
  match i with
  | .setCursor _ _ => false
  | .begin => false
  | .clear => false
  | .clearLine => false
  | .home => false
  | .writeReject _ => false
  | .writeCr => false
  | .writeNl => false
  | .writePrint _ => decide (s.widthPx.toNat ≤ s.cursorColumn.toNat + 6)
  | .writeCtrl _ => decide (s.widthPx.toNat ≤ s.cursorColumn.toNat + 6)
  | .createChar _ _ => false
  | .createCharIgnored _ _ => false
  | .drawBitmap _ _ _ => false
  | .drawColumn _ _ => false
  | .pageSel _ => false
  | .colHi _ => false
  | .colLo _ => false

/-- The host has defined the five bytes of every registered pattern (R149, R208). -/
def State.patternsAlive (s : State) : Bool :=
  s.slots.toList.all fun entry =>
    match entry with
    | some ptr => (patternAddrs ptr).all fun a => (Memory.lookup s.mem a.toNat).isSome
    | none => true

/-- A step takes no hardware reset: the block is busy, and takes no action of the host, or the next action is not
hardware reset. -/
def State.noReset (s : State) : Bool := !s.ready || s.host.head? != some .reset

/-- A request that a step takes keeps the duties (R217). A busy block takes none. -/
def State.hostDutiful (s : State) : Bool :=
  !s.ready || match s.host with
  | .request w :: _ =>
    match decode (.request w) with
    | .ok i => dutiful i s
    | .error _ => true
  | _ => true

/-- A request that a step takes is no glyph WRITE at the right edge (R206). A busy block takes none. -/
def State.hostKeepsStep (s : State) : Bool :=
  !s.ready || match s.host with
  | .request w :: _ =>
    match decode (.request w) with
    | .ok i => !leavesStep i s
    | .error _ => true
  | _ => true

/-- What the sink is once it has taken every event of a list, by step's own reaction to each (R65, R71). -/
def drain : List Event → State → State
  | [], s => s
  | e :: events, s =>
    match sinkReact e (takeEvent e events s) with
    | .next t => drain events t
    | .fault _ => s
    | .refused _ => s

/-- The state once the sink has taken every event at the port. -/
def State.drained (s : State) : State := drain s.port s

end Sys2Proof.Machine
end

