-- ==== Sys2Proof/Certificates/Slice0/Obligations.lean ====
section
/-!
DEFINITION. The statements for the provers, each with the rule of spec/ it formalises; before them the few functions
they are written with, taken from the rules' own formulas and not from the meanings.
-/

namespace Sys2Proof.Machine

/-! ## The rules' formulas -/

/-- CLEAR's stream, R122. -/
def clearStream : List Event :=
  ((List.range 8).flatMap fun p =>
    [.cmd (u8 (0xB0 + p)), .cmd 0x10, .cmd 0x04] ++ List.replicate 132 (.data 0))
  ++ [.cmd 0xB0, .cmd 0x10, .cmd 0x04]

/-- `mx`, R161. -/
def blitWidth (columns : Byte) (s : State) : Nat :=
  if s.cursorColumn.toNat + columns.toNat ≤ s.widthPx.toNat then columns.toNat
  else s.widthPx.toNat - s.cursorColumn.toNat

/-- `my`, R161. -/
def blitHeight (lines : Byte) (s : State) : Nat :=
  if s.cursorLine.toNat + lines.toNat ≤ s.heightPx.toNat / 8 then lines.toNat
  else s.heightPx.toNat / 8 - s.cursorLine.toNat

/-- The clamped value of a bar, R171. -/
def barValue (lines value : Byte) : Int := min (value.toNat : Int) (lines.toNat * 8)

/-- The mark of a bar, R172. -/
def barMarkPage (lines value : Byte) : Int := (lines.toNat * 8 - 1 - barValue lines value).tdiv 8

/-- The shift count of a bar, R173. -/
def barShiftCount (lines value : Byte) : Int :=
  lines.toNat * 8 - barMarkPage lines value * 8 - barValue lines value

/-- The byte of page `p` of a bar, R173, R174. -/
def barPageByte (lines value : Byte) (p : Nat) : Byte :=
  if (p : Int) < barMarkPage lines value then 0x00
  else if (p : Int) = barMarkPage lines value then u8 (0xFF * 2 ^ (barShiftCount lines value).toNat)
  else 0xFF

/-- How many pixels of a byte are lit. -/
def litPixels (b : Byte) : Nat := (List.range 8).countP b.getLsbD

/-- A command event. -/
def Event.isCmd : Event → Bool
  | .cmd _ => true
  | _ => false

/-- A data event. -/
def Event.isData : Event → Bool
  | .data _ => true
  | _ => false

/-- The byte of a data event. -/
def Event.dataByte : Event → Option Byte
  | .data b => some b
  | _ => none

/-- A delay event. -/
def Event.isDelay : Event → Bool
  | .delay _ => true
  | _ => false

/-- The request completes and appends these events to OUT (R10, R12). -/
def emits (i : Instr) (s : State) (events : List Event) : Prop := ∃ t, exec i s = .next t ∧ t.port = s.port ++ events

end Sys2Proof.Machine

open Sys2Proof Sys2Proof.Machine

/-! ## Encodings -/

/-- R82 to R85, R91 to R93, R95, R96: no operand bit of an encoding is dropped. -/
def Obligations.DecodeOfEncode : Prop :=
  ∀ i : Instr, i.wf = true → decode (encode i) = .ok i

/-- R85, R95, R96: what a decoder gives is well formed and of its format. -/
def Obligations.DecodeGivesWellFormed : Prop :=
  ∀ (c : Code) (i : Instr), decode c = .ok i →
    i.wf = true ∧ (i.isRequest = true ↔ ∃ w, c = .request w)

/-- R95. -/
def Obligations.TableRowsDisjointAndComplete : Prop :=
  ∀ w : Request,
    (1 ≤ (Request.op w).toNat ∧ (Request.op w).toNat ≤ 9 → (tableRows (.request w)).length = 1) ∧
    ((Request.op w).toNat = 0 ∨ 10 ≤ (Request.op w).toNat → tableRows (.request w) = [])

/-- R84, R91 to R93, R95, R96: the decoder and the opcode table agree on every word and byte. -/
def Obligations.DecoderAgreesWithTable : Prop :=
  ∀ c : Code, (tableRows c).map TableRow.mnemonic =
    match decode c with
    | .ok i => [i.mnemonic]
    | .error _ => []

/-- R83: the fields each operation uses, whatever the others hold. -/
def Obligations.RequestFieldsByOperation : Prop :=
  ∀ (a b : Byte) (ptr : Addr),
    decodeRequest (Request.ofFields 0x01 a b ptr) = .ok (.setCursor a b) ∧
    decodeRequest (Request.ofFields 0x02 a b ptr) = .ok .begin ∧
    decodeRequest (Request.ofFields 0x03 a b ptr) = .ok .clear ∧
    decodeRequest (Request.ofFields 0x04 a b ptr) = .ok .clearLine ∧
    decodeRequest (Request.ofFields 0x05 a b ptr) = .ok .home ∧
    decodeRequest (Request.ofFields 0x06 a b ptr) = .ok (Instr.write a) ∧
    decodeRequest (Request.ofFields 0x07 a b ptr) = .ok (Instr.create a ptr) ∧
    decodeRequest (Request.ofFields 0x08 a b ptr) = .ok (.drawBitmap a b ptr) ∧
    decodeRequest (Request.ofFields 0x09 a b ptr) = .ok (.drawColumn a b)

/-- R95: the five classes of WRITE's operand. -/
def Obligations.WriteClassesByCode : Prop :=
  ∀ chr : Byte,
    (0x80 ≤ chr.toNat → Instr.write chr = .writeReject chr) ∧
    (chr.toNat = 0x0D → Instr.write chr = .writeCr) ∧
    (chr.toNat = 0x0A → Instr.write chr = .writeNl) ∧
    (0x20 ≤ chr.toNat → chr.toNat ≤ 0x7F → Instr.write chr = .writePrint chr) ∧
    (chr.toNat ≤ 0x1F → chr.toNat ≠ 0x0A → chr.toNat ≠ 0x0D → Instr.write chr = .writeCtrl chr)

/-- A few words written out from the encodings of R82, R84 and R91 to R93. -/
def Obligations.WrittenOutWordsDecode : Prop :=
  decodeTableWord 40 0x010A03BEEF = some (.setCursor 10 3) ∧
  decodeTableWord 40 0x0641771234 = some (.writePrint 0x41) ∧
  decodeTableWord 40 0x0701000200 = some (.createChar 1 0x0200) ∧
  decodeTableWord 40 0x0808031000 = some (.drawBitmap 8 3 0x1000) ∧
  decodeTableWord 40 0x0902050000 = some (.drawColumn 2 5) ∧
  decodeTableWord 40 0x0A12345678 = none ∧
  decodeTableWord 8 0xB3 = some (.pageSel 3) ∧
  decodeTableWord 8 0x16 = some (.colHi 6) ∧
  decodeTableWord 8 0x08 = some (.colLo 8)

/-! ## The step -/

/-- R80, R81, R85: at a ready block a step runs the instruction the host's request word decodes to. -/
def Obligations.StepRunsDecodedRequest : Prop :=
  ∀ (s : State) (w : Request) (rest : List HostAction) (i : Instr),
    s.ready = true → s.host = .request w :: rest → decode (.request w) = .ok i →
    step s = exec i (takeAction rest s)

/-- R65, R71, R88: where the transport is ready, a step gives the sink the event at the head of the port, and runs the
instruction a command byte decodes to. For a byte of INIT_SEQ and for a page select that overflowed, whose effect R71
and 93 U2 leave open, that is the model's choice (logs 14, 28). -/
def Obligations.StepRunsDecodedCommand : Prop :=
  (∀ (s : State) (e : Event) (rest : List Event),
    s.port = e :: rest → (Event.isDelay e = true ∨ s.outReady.head? ≠ some 0) →
    step s = sinkReact e (takeEvent e rest s)) ∧
  (∀ (s : State) (b : Byte) (rest : List Event) (i : Instr),
    s.port = .cmd b :: rest → s.outReady.head? ≠ some 0 → decode (.command b) = .ok i →
    step s = exec i (takeEvent (.cmd b) rest s))

/-- The host's reading of a table row: the word placed by withFetchWord is what the very next step runs (log 6; for a
command byte, whatever emitted it, logs 14, 28). -/
def Obligations.FetchWordRunsNext : Prop :=
  ∀ (s : State) (w : Nat) (i : Instr),
    (decodeTableWord 40 w = some i →
      step (s.withFetchWord 40 w) = exec i (takeAction s.host { s with port := [], response := none, host := s.host })) ∧
    (decodeTableWord 8 w = some i →
      step (s.withFetchWord 8 w) = exec i (takeEvent (.cmd (BitVec.ofNat 8 w)) s.port { s with outReady := [] }))

/-- R87. -/
def Obligations.ReservedOpcodeChangesNothing : Prop :=
  ∀ (s : State) (w : Request) (rest : List HostAction),
    s.ready = true → s.host = .request w :: rest → ((Request.op w).toNat = 0 ∨ 0x0A ≤ (Request.op w).toNat) →
    step s = .next { takeAction rest s with response := some 0 }

/-- R180: no step stops. R180 speaks of a state that is "once written": that a step goes on where a register is
unwritten (log 1), where a glyph WRITE has a widthPx of 0 (log 16) and where nothing is left to do (log 7) is the
model's choice. -/
def Obligations.StepAlwaysAnswersNext : Prop :=
  ∀ s : State, ∃ t, step s = .next t

/-- R12, R86, R141, R142, R180: every request completes, and its response is 1 exactly for an accepted WRITE. That a
glyph WRITE completes with a widthPx of 0 too, where R8 defines no `mod`, is the model's choice (log 16), and so is that an unwritten register
holds a value (log 1). -/
def Obligations.RequestCompletesWithCount : Prop :=
  ∀ (i : Instr) (s : State), i.isRequest = true →
    ∃ t, exec i s = .next t ∧
      t.response =
        some (if i.mnemonic ∈ ["WRITE.CR", "WRITE.NL", "WRITE.PRINT", "WRITE.CTRL"] then 1 else 0)

/-- R81: `req_ready` is 0 from the step that takes a request to the step that delivers its response, and no host
action is taken meanwhile. -/
def Obligations.OneRequestAtATime : Prop :=
  (∀ (s t : State) (w : Request) (rest : List HostAction),
    s.ready = true → s.host = .request w :: rest → step s = .next t → t.ready = false) ∧
  (∀ s t : State, s.ready = false → step s = .next t → t.host = s.host) ∧
  (∀ s t : State, s.wf = true → s.ready = false → step s = .next t → t.ready = true →
    ∃ count, s.port = [] ∧ s.response = some count ∧ t.responses = s.responses ++ [count])

/-- R86, R200: once the last event is taken the response is delivered, after which the block is ready; and an idle block
changes nothing. That each takes a step of its own is the model's choice (logs 5, 7). -/
def Obligations.DueResponseIsDelivered : Prop :=
  (∀ (s : State) (count : Bit), s.port = [] → s.response = some count →
    ∃ t, step s = .next t ∧ t = { s with response := none, responses := s.responses ++ [count] } ∧ t.ready = true) ∧
  (∀ s : State, s.ready = true → s.host = [] → step s = .next s)

/-- R88: while the transport keeps `out_ready` at 0 the block waits without changing state; only the transport's own
schedule moves on. A delay is not carried on the port, and is not held there. -/
def Obligations.BlockWaitsForTransport : Prop :=
  (∀ (s : State) (e : Event) (rest : List Event) (later : List Bit),
    s.port = e :: rest → (Event.isCmd e = true ∨ Event.isData e = true) → s.outReady = 0 :: later →
    step s = .next { s with outReady := later }) ∧
  (∀ (s : State) (ms : Nat) (rest : List Event), s.port = .delay ms :: rest →
    step s = .next { s with delivered := s.delivered ++ [.delay ms], port := rest, tick := s.tick + 1 })

/-- R65: unless the step is hardware reset, OUT only grows, at its end; the sink takes its events in order, one a step at which the transport is ready,
and adds none; a response is delivered only after every event has been taken. -/
def Obligations.OutGrowsAndDrainsInOrder : Prop :=
  ∀ s t : State, s.noReset = true → step s = .next t →
    (∃ events, t.out = s.out ++ events) ∧
    (s.port ≠ [] → t.out = s.out ∧ (t.port = s.port ∨ ∃ e, s.port = e :: t.port ∧ t.delivered = s.delivered ++ [e])) ∧
    (s.port ≠ [] → s.outReady.head? ≠ some 0 → t.port = s.port.tail) ∧
    (s.port = [] → t.delivered = s.delivered) ∧
    (t.responses ≠ s.responses → s.port = [])

/-- R65, R88: every event that waits at the port reaches the sink, in as many steps as there are events and steps at
which the transport is not ready; what the sink holds then does not depend on the transport's schedule. -/
def Obligations.PortDrainsHoweverSlowTheTransport : Prop :=
  ∀ s : State, ∃ k t, k ≤ s.port.length + s.outReady.countP (· == 0) ∧ core.run k s = .next t ∧
    t = { s.drained with outReady := t.outReady } ∧ t.port = [] ∧ t.delivered = s.delivered ++ s.port

/-! ## What each instruction does -/

/-- R111: SETCURSOR, with the three bytes of R91 to R93. -/
def Obligations.SetCursorAddressesDisplay : Prop :=
  ∀ (column line : Byte) (s : State),
    exec (.setCursor column line) s = .next
      { s with
        cursorColumn := u8 (column.toNat + 4)
        cursorLine := line
        port := s.port ++
          [.cmd (u8 (0xB0 + line.toNat)), .cmd (u8 (0x10 + (column.toNat + 4) % 256 / 16)),
            .cmd (u8 ((column.toNat + 4) % 16))]
        response := some 0 }

/-- R113: a Seek's bytes determine its column, and its line where that is at most 15; a Seek leaves its column and line
in the registers whatever they held; and of two SETCURSORs the second alone shows, but for three bytes of OUT. -/
def Obligations.SeekProperties : Prop :=
  (∀ column line : Byte,
    ∃ byte0 byte1 byte2 : Byte,
      seekEvents column line = [.cmd byte0, .cmd byte1, .cmd byte2] ∧
      (line.toNat ≤ 15 → byte0.toNat = 0xB0 + line.toNat) ∧
      16 * (byte1.toNat - 0x10) + byte2.toNat = column.toNat ∧
      0x10 ≤ byte1.toNat ∧ byte1.toNat ≤ 0x1F ∧ byte2.toNat ≤ 0x0F) ∧
  (∀ (column line : Byte) (s : State),
    seek column line s =
      { s with cursorColumn := column, cursorLine := line, port := s.port ++ seekEvents column line }) ∧
  (∀ (c l c' l' : Byte) (s t u v : State),
    exec (.setCursor c l) s = .next t → exec (.setCursor c' l') t = .next u → exec (.setCursor c' l') s = .next v →
    ∃ first : List Event, first.length = 3 ∧ v.port = s.port ++ v.port.drop s.port.length ∧
      u = { v with port := s.port ++ first ++ v.port.drop s.port.length })

/-- R120, R121: BEGIN. INIT_SEQ is the open parameter of R7, with no bytes known (log 9); its tail is R120's. -/
def Obligations.BeginInitialisesAndClears : Prop :=
  (∃ (steps : List Byte) (displayEnable allPixelsOn normalDisplay : Byte),
    initSeq = steps.map Event.cmd ++
      [.cmd displayEnable, .delay 100, .cmd allPixelsOn, .delay 200, .cmd normalDisplay]) ∧
  ∀ s : State,
    exec .begin s = .next
      { s with
        widthPx := 128
        heightPx := 64
        cursorColumn := 4
        cursorLine := 0
        port := s.port ++ initSeq ++ clearStream
        response := some 0 }

/-- R122: CLEAR. -/
def Obligations.ClearWritesEveryPage : Prop :=
  ∀ s : State,
    exec .clear s = .next
      { s with cursorColumn := 4, cursorLine := 0, port := s.port ++ clearStream, response := some 0 }

/-- R123, R126: the event counts of BEGIN, CLEAR, CLEARLINE and HOME. -/
def Obligations.EventCountsOfClearing : Prop :=
  ∀ s : State, ∃ eBegin eClear eLine eHome : List Event,
    (emits .begin s eBegin ∧ eBegin.countP Event.isCmd = initSeq.countP Event.isCmd + 27 ∧
      eBegin.countP Event.isData = 1056 ∧ eBegin.filter Event.isDelay = [.delay 100, .delay 200] ∧
      eBegin.length = initSeq.length + 1083) ∧
    (emits .clear s eClear ∧ eClear.countP Event.isCmd = 27 ∧ eClear.countP Event.isData = 1056 ∧
      eClear.length = 1083 ∧
      (∀ k < 8, (eClear.drop (135 * k)).take 3 = [.cmd (u8 (0xB0 + k)), .cmd 0x10, .cmd 0x04]) ∧
      eClear.drop 1080 = [.cmd 0xB0, .cmd 0x10, .cmd 0x04]) ∧
    (emits .clearLine s eLine ∧ eLine.countP Event.isCmd = 6 ∧ eLine.countP Event.isData = 128 ∧
      eLine.length = 134) ∧
    (emits .home s eHome ∧ eHome.countP Event.isCmd = 3 ∧ eHome.countP Event.isData = 0 ∧ eHome.length = 3)

/-- R124: CLEARLINE. -/
def Obligations.ClearLineWritesOneLine : Prop :=
  ∀ s : State,
    exec .clearLine s = .next
      { s with
        cursorColumn := 4
        port := s.port ++
          ([.cmd (u8 (0xB0 + s.cursorLine.toNat)), .cmd 0x10, .cmd 0x04] ++ List.replicate 128 (.data 0)
            ++ [.cmd (u8 (0xB0 + s.cursorLine.toNat)), .cmd 0x10, .cmd 0x04])
        response := some 0 }

/-- R125, R143: HOME and WRITE(CR), alike but for the response. -/
def Obligations.HomeAndCrReturnToColumnZero : Prop :=
  ∀ s : State,
    (exec .home s = .next
      { s with
        cursorColumn := 4
        port := s.port ++ [.cmd (u8 (0xB0 + s.cursorLine.toNat)), .cmd 0x10, .cmd 0x04]
        response := some 0 }) ∧
    (exec .writeCr s = .next
      { s with
        cursorColumn := 4
        port := s.port ++ [.cmd (u8 (0xB0 + s.cursorLine.toNat)), .cmd 0x10, .cmd 0x04]
        response := some 1 })

/-- R144: WRITE(NL). -/
def Obligations.NewlineKeepsTheColumn : Prop :=
  ∀ s : State,
    exec .writeNl s = .next
      { s with
        cursorLine := u8 (s.cursorLine.toNat + 1)
        port := s.port ++
          [.cmd (u8 (0xB0 + (s.cursorLine.toNat + 1) % 256)), .cmd (u8 (0x10 + s.cursorColumn.toNat / 16)),
            .cmd (u8 (s.cursorColumn.toNat % 16))]
        response := some 1 }

/-- R141: a rejected WRITE changes nothing but the response. -/
def Obligations.RejectedWriteChangesNothing : Prop :=
  ∀ (chr : Byte) (s : State), 0x80 ≤ chr.toNat →
    Instr.write chr = .writeReject chr ∧ exec (.writeReject chr) s = .next { s with response := some 0 }

/-- R145, R146: WRITE of a printable or control code other than CR and NL: the pattern selected, a registered one read
now; the spacer column; the advance, and no command. The modulus is defined for a divisor above 0 only (R8). -/
def Obligations.GlyphRendersAndAdvances : Prop :=
  ∀ (chr : Byte) (s : State), chr.toNat ≤ 0x7F → chr.toNat ≠ 0x0A → chr.toNat ≠ 0x0D → s.widthPx ≠ 0 →
    let column : Nat := (s.cursorColumn.toNat + 6) % s.widthPx.toNat
    let drawn (bytes : List Byte) (addrs : List Addr) : State :=
      { s with
        cursorColumn := u8 column
        cursorLine := if column = 0 then u8 ((s.cursorLine.toNat + 1) % (s.heightPx.toNat / 9 + 1)) else s.cursorLine
        port := s.port ++ bytes.map .data ++ [.data 0]
        reads := s.reads ++ addrs
        response := some 1 }
    (0x20 ≤ chr.toNat →
      exec (.writePrint chr) s = .next (drawn ((List.range 5).map (glyphRom (chr.toNat - 0x20))) [])) ∧
    (chr.toNat < 0x20 → ∀ ptr, s.slot chr = some ptr →
      exec (.writeCtrl chr) s = .next
        (drawn ((List.range 5).map fun k => s.sourceByte (u16 (ptr.toNat + k)))
          ((List.range 5).map fun k => u16 (ptr.toNat + k)))) ∧
    (chr.toNat < 0x20 → s.slot chr = none →
      exec (.writeCtrl chr) s = .next (drawn ((List.range 5).map fun _ => 0) []))

/-- R145, R146: the same bytes are emitted, and the same state is left but for the cursor, whatever the geometry
registers hold; for `widthPx` = 0, possible before BEGIN only, the new column is the model's free value (log 16). -/
def Obligations.GlyphBytesIgnoreTheGeometry : Prop :=
  ∀ (chr width height : Byte) (i : Instr) (s : State), i = .writePrint chr ∨ i = .writeCtrl chr →
    ∃ t u, exec i s = .next t ∧ exec i { s with widthPx := width, heightPx := height } = .next u ∧
      u = { t with widthPx := width, heightPx := height, cursorColumn := u.cursorColumn, cursorLine := u.cursorLine } ∧
      t = { s with
        cursorColumn := t.cursorColumn
        cursorLine := t.cursorLine
        port := t.port
        reads := t.reads
        response := some 1 } ∧
      ∃ bytes : List Byte, bytes.length = 6 ∧ t.port = s.port ++ bytes.map .data

/-- R148: CREATECHAR with a code below 0x20 registers its pointer, at 0 like any other; with another code it does
nothing. -/
def Obligations.CreateCharRegisters : Prop :=
  (∀ (code : Byte) (ptr : Addr) (s : State), code.toNat < 0x20 →
    ∃ t, exec (.createChar code ptr) s = .next t ∧
      t = { s with slots := t.slots, response := some 0 } ∧
      t.slot code = some ptr ∧ ∀ c, c ≠ code → t.slot c = s.slot c) ∧
  (∀ (code : Byte) (ptr : Addr) (s : State), 0x20 ≤ code.toNat →
    exec (.createCharIgnored code ptr) s = .next { s with response := some 0 })

/-- R160, R161, R163, R164: DRAWBITMAP. -/
def Obligations.BitmapClipsAndCopies : Prop :=
  ∀ (columns lines : Byte) (ptr : Addr) (s : State),
    exec (.drawBitmap columns lines ptr) s = .next
      { s with
        cursorColumn := u8 (s.cursorColumn.toNat + columns.toNat)
        port := s.port ++
          ((List.range (blitHeight lines s)).flatMap fun r =>
            seekEvents s.cursorColumn (u8 (s.cursorLine.toNat + r)) ++
              (List.range (blitWidth columns s)).map fun x =>
                .data (s.sourceByte (u16 (ptr.toNat + r * columns.toNat + x)))) ++
          seekEvents (u8 (s.cursorColumn.toNat + columns.toNat)) s.cursorLine
        reads := s.reads ++
          (List.range (blitHeight lines s)).flatMap fun r =>
            (List.range (blitWidth columns s)).map fun x => u16 (ptr.toNat + r * columns.toNat + x)
        response := some 0 }

/-- R170 to R176: DRAWCOLUMN; for `lines` = 0 the mark page is written all the same. -/
def Obligations.BarWritesEveryPage : Prop :=
  ∀ (lines value : Byte) (s : State),
    exec (.drawColumn lines value) s = .next
      { s with
        cursorColumn := u8 (s.cursorColumn.toNat + 1)
        port := s.port ++
          ((List.range (max lines.toNat 1)).flatMap fun p =>
            seekEvents s.cursorColumn (u8 (s.cursorLine.toNat + p)) ++ [.data (barPageByte lines value p)]) ++
          seekEvents (u8 (s.cursorColumn.toNat + 1)) s.cursorLine
        response := some 0 }

/-- R71: the output commands at the controller. Their columns and pages are independent (the spec's own K4, log 15). -/
def Obligations.OutputCommandsMovePointer : Prop :=
  ∀ (s : State) (n : Nibble),
    exec (.pageSel n) s = .next { s with sink := { s.sink with page := n } } ∧
    exec (.colHi n) s = .next { s with sink := { s.sink with column := u8 (n.toNat * 16 + s.sink.column.toNat % 16) } } ∧
    exec (.colLo n) s = .next
      { s with sink := { s.sink with column := u8 (s.sink.column.toNat / 16 * 16 + n.toNat) } }

/-! ## What instructions leave alone, and what they do not depend on -/

/-- R11, R12, R20: the frame of every request. Only BEGIN writes the geometry, only CREATECHAR below 0x20 a slot, only
WRITE of a control code and DRAWBITMAP read the source memory; no request writes it, and every byte of it reads as
before; the rejected WRITE, CREATECHAR and their like leave the cursor, and emit nothing. -/
def Obligations.RequestFrame : Prop :=
  ∀ (i : Instr) (s t : State), i.isRequest = true → i.wf = true → exec i s = .next t →
    (∀ a, t.sourceByte a = s.sourceByte a) ∧ t.mem = s.mem ∧
    t.delivered = s.delivered ∧ t.outReady = s.outReady ∧ t.responses = s.responses ∧ t.host = s.host ∧
    t.sink = s.sink ∧ t.tick = s.tick ∧
    (∃ events, t.port = s.port ++ events) ∧
    (i.mnemonic ≠ "BEGIN" → t.widthPx = s.widthPx ∧ t.heightPx = s.heightPx) ∧
    (i.mnemonic ≠ "CREATECHAR" → t.slots = s.slots) ∧
    (i.mnemonic ∉ ["WRITE.CTRL", "DRAWBITMAP"] → t.reads = s.reads) ∧
    (i.mnemonic ∈ ["WRITE.REJECT", "CREATECHAR", "CREATECHAR.IGNORED"] →
      t.cursorColumn = s.cursorColumn ∧ t.cursorLine = s.cursorLine ∧ t.port = s.port) ∧
    (i.mnemonic ∈ ["CLEARLINE", "HOME", "WRITE.CR", "DRAWBITMAP", "DRAWCOLUMN"] → t.cursorLine = s.cursorLine)

/-- R53, R71: an output command leaves everything but the controller's pointer, and every display byte reads as
before. -/
def Obligations.OutputCommandFrame : Prop :=
  ∀ (i : Instr) (s t : State), i.isRequest = false → exec i s = .next t →
    t = { s with sink := { s.sink with page := t.sink.page, column := t.sink.column } } ∧
    (∀ page column, t.sink.ramAt page column = s.sink.ramAt page column) ∧
    (∀ a, t.sourceByte a = s.sourceByte a) ∧
    (i.mnemonic = "PAGESEL" → t.sink.column = s.sink.column) ∧
    (i.mnemonic ≠ "PAGESEL" → t.sink.page = s.sink.page)

/-- R27: only CREATECHAR writes a slot, and a slot once valid stays valid until hardware reset. -/
def Obligations.SlotsChangeByCreateCharOnly : Prop :=
  ∀ s t : State, s.noReset = true → step s = .next t →
    (t.slots ≠ s.slots →
      ∃ w rest code ptr, s.ready = true ∧ s.host = .request w :: rest ∧ t.host = rest ∧
        decode (.request w) = .ok (.createChar code ptr) ∧ code.toNat < 0x20 ∧ t.slot code = some ptr ∧ ∀ c, c ≠ code → t.slot c = s.slot c) ∧
    (∀ c, (s.slot c).isSome = true → (t.slot c).isSome = true)

/-- R11, R50, R217: a step leaves every byte of the source memory but the one the host writes, and a step in which the
host writes one changes nothing else. -/
def Obligations.OnlyTheHostWritesSourceMemory : Prop :=
  ∀ (s t : State), step s = .next t →
    (∀ a : Addr, (∀ b rest, s.ready = true → s.host ≠ .store a b :: rest) →
      Memory.lookup t.mem a.toNat = Memory.lookup s.mem a.toNat) ∧
    (∀ a b rest, s.ready = true → s.host = .store a b :: rest →
      t = { takeAction rest s with mem := t.mem } ∧ t.sourceByte a = b)

/-- R150: CREATECHAR writes slots 0x0A and 0x0D, WRITE of those codes emits three commands and no data, and no WRITE
depends on what those two slots hold. -/
def Obligations.SlotsOfCrAndNlNeverShow : Prop :=
  (∀ code : Byte, code.toNat = 0x0A ∨ code.toNat = 0x0D →
    (∀ (ptr : Addr) (s : State), ∃ t, exec (Instr.create code ptr) s = .next t ∧ t.slot code = some ptr) ∧
    (∀ s : State, ∃ events, emits (Instr.write code) s events ∧ events.length = 3 ∧ events.all Event.isCmd = true)) ∧
  (∀ (chr : Byte) (s t : State) (slots : Vector (Option Addr) 32),
    (∀ c : Nat, c ≠ 0x0A → c ≠ 0x0D → slots[c]? = s.slots[c]?) →
    exec (Instr.write chr) s = .next t →
    exec (Instr.write chr) { s with slots := slots } = .next { t with slots := slots })

/-- R68, R145, R149: after a CREATECHAR for `code`, in any later state that still holds that slot, WRITE of `code`
emits the five bytes that stand at the pointer then, and one spacer. -/
def Obligations.RegisteredPatternIsReadAtEachWrite : Prop :=
  ∀ (code : Byte) (ptr : Addr) (s t u v : State),
    code.toNat < 0x20 → code.toNat ≠ 0x0A → code.toNat ≠ 0x0D →
    exec (Instr.create code ptr) s = .next t → u.slot code = t.slot code → exec (Instr.write code) u = .next v →
    v.port = u.port ++ ((List.range 5).map fun k => .data (u.sourceByte (u16 (ptr.toNat + k)))) ++ [.data 0]

/-- R13, R70: no request depends on the sink. -/
def Obligations.RequestsIgnoreTheSink : Prop :=
  ∀ (i : Instr) (s t : State) (k : Sink), i.isRequest = true → exec i s = .next t →
    exec i { s with sink := k } = .next { t with sink := k }

/-- R202: the requests that read no unwritten register give the same events, slots, reads and response whatever the
geometry registers (and, for the second clause, the cursor too) hold. -/
def Obligations.RequestsBeforeBeginAreSpecified : Prop :=
  ∀ (i : Instr) (s t u : State) (width height column line : Byte), i.isRequest = true → readsGeometry i = false →
    exec i s = .next t →
    (exec i { s with widthPx := width, heightPx := height } = .next u →
      u = { t with widthPx := u.widthPx, heightPx := u.heightPx }) ∧
    (readsCursor i = false →
      exec i { s with widthPx := width, heightPx := height, cursorColumn := column, cursorLine := line } = .next u →
      u = { t with
        widthPx := u.widthPx
        heightPx := u.heightPx
        cursorColumn := u.cursorColumn
        cursorLine := u.cursorLine })

/-! ## The corner cases -/

/-- R147 items 1 and 4: with the geometry of BEGIN, a glyph advances the line exactly from columns 122 and 250, and
from an odd column it never does and the column stays odd. -/
def Obligations.LineAdvancesFromTwoColumnsOnly : Prop :=
  ∀ (chr : Byte) (s t : State), s.initialised = true →
    exec (.writePrint chr) s = .next t ∨ exec (.writeCtrl chr) s = .next t →
    (s.cursorColumn.toNat = 122 ∨ s.cursorColumn.toNat = 250 →
      t.cursorColumn = 0 ∧ t.cursorLine = u8 ((s.cursorLine.toNat + 1) % 8)) ∧
    (s.cursorColumn.toNat ≠ 122 → s.cursorColumn.toNat ≠ 250 →
      t.cursorColumn.toNat = (s.cursorColumn.toNat + 6) % 128 ∧ t.cursorColumn ≠ 0 ∧ t.cursorLine = s.cursorLine) ∧
    (s.cursorColumn.toNat % 2 = 1 → t.cursorColumn.toNat % 2 = 1 ∧ t.cursorLine = s.cursorLine)

/-- R162 item 8, R165 items 1 to 3: the counts of a blit, and that it never writes past the width or the pages. -/
def Obligations.BitmapCountsAndBounds : Prop :=
  ∀ (columns lines : Byte) (ptr : Addr) (s : State),
    ∃ t events, exec (.drawBitmap columns lines ptr) s = .next t ∧ t.port = s.port ++ events ∧
      events.countP Event.isData = blitWidth columns s * blitHeight lines s ∧
      events.countP Event.isCmd = 3 * blitHeight lines s + 3 ∧
      events.length = events.countP Event.isData + events.countP Event.isCmd ∧
      (0 < blitWidth columns s → s.cursorColumn.toNat + blitWidth columns s ≤ s.widthPx.toNat) ∧
      (0 < blitHeight lines s → s.cursorLine.toNat + blitHeight lines s ≤ s.heightPx.toNat / 8) ∧
      t.cursorLine = s.cursorLine ∧ t.cursorColumn = u8 (s.cursorColumn.toNat + columns.toNat)

/-- R171 to R173: the clamp, the mark, the shift count and the byte the model computes are the rules' own; the mark of
a region with pages is one of them; the count is in 0..8, 0 exactly for a full bar, and otherwise the residue of the
empty pixels, or 8 where that is 0; the byte is the rule's table of it. -/
def Obligations.BarMarkShiftAndByte : Prop :=
  ∀ lines value : Byte,
    (barHeight lines value : Int) = barValue lines value ∧
    (barMark lines value : Int) = barMarkPage lines value ∧
    (barShift lines value : Int) = barShiftCount lines value ∧
    (1 ≤ lines.toNat → 0 ≤ barMarkPage lines value ∧ barMarkPage lines value ≤ lines.toNat - 1) ∧
    0 ≤ barShiftCount lines value ∧ barShiftCount lines value ≤ 8 ∧
    (barShiftCount lines value = 0 ↔ barValue lines value = lines.toNat * 8) ∧
    (barValue lines value < lines.toNat * 8 →
      barShiftCount lines value =
        if (lines.toNat * 8 - barValue lines value) % 8 = 0 then 8 else (lines.toNat * 8 - barValue lines value) % 8) ∧
    [0xFF, 0xFE, 0xFC, 0xF8, 0xF0, 0xE0, 0xC0, 0x80, 0x00][(barShiftCount lines value).toNat]? =
      some (barByte lines value)

/-- R174: the pages above the mark are written as zero and those below it as 0xFF, and the number of lit pixels is the
clamped value. -/
def Obligations.BarIsExactlyItsValueTall : Prop :=
  ∀ (lines value : Byte) (s : State), 1 ≤ lines.toNat →
    ∃ events bytes, emits (.drawColumn lines value) s events ∧ events.filterMap Event.dataByte = bytes ∧
      bytes.length = lines.toNat ∧
      (∀ p : Nat, (p : Int) < barMarkPage lines value → bytes[p]? = some 0x00) ∧
      (∀ p : Nat, barMarkPage lines value < p → p < lines.toNat → bytes[p]? = some 0xFF) ∧
      (((bytes.map litPixels).sum : Nat) : Int) = barValue lines value

/-- R177: the table of results for `lines` = 4, through the model's own values and the events of the request. -/
def Obligations.BarResultsForFourPages : Prop :=
  ∀ row ∈ ([(0, 0, 3, 8, 0x00, [0x00, 0x00, 0x00, 0x00]), (1, 1, 3, 7, 0x80, [0x00, 0x00, 0x00, 0x80]),
      (8, 8, 2, 8, 0x00, [0x00, 0x00, 0x00, 0xFF]), (13, 13, 2, 3, 0xF8, [0x00, 0x00, 0xF8, 0xFF]),
      (31, 31, 0, 1, 0xFE, [0xFE, 0xFF, 0xFF, 0xFF]), (32, 32, 0, 0, 0xFF, [0xFF, 0xFF, 0xFF, 0xFF]),
      (33, 32, 0, 0, 0xFF, [0xFF, 0xFF, 0xFF, 0xFF]), (255, 32, 0, 0, 0xFF, [0xFF, 0xFF, 0xFF, 0xFF])] :
      List (Byte × Nat × Nat × Nat × Byte × List Byte)),
    match row with
    | (value, v, mark, n, b, pages) =>
      barHeight 4 value = v ∧ barMark 4 value = mark ∧ barShift 4 value = n ∧ barByte 4 value = b ∧
      ∀ s : State, emits (.drawColumn 4 value) s
        ((pages.zipIdx.flatMap fun (page, p) =>
          seekEvents s.cursorColumn (u8 (s.cursorLine.toNat + p)) ++ [.data page]) ++
          seekEvents (u8 (s.cursorColumn.toNat + 1)) s.cursorLine)

/-! ## The display: these statements speak of R71's informative model (log 14), also before the first BEGIN (log 29) -/

/-- R71: no event at the sink changes anything else (R31, R122: data bytes leave the cursor); that it goes on after a
command that is none of the three is the model's choice (log 12). What the sink does with a data byte up to the last visible column (whether a hidden column stores it is free,
log 13), with a delay, and with a Seek. That the page stays after a byte in the last visible column too is the model's
choice (log 31). -/
def Obligations.SinkReactsToEvents : Prop :=
  (∀ (e : Event) (s : State), ∃ t, sinkReact e s = .next t ∧ t = { s with sink := t.sink }) ∧
  (∀ (s t : State) (d : Byte), s.sink.page.toNat ≤ 7 → s.sink.column.toNat ≤ 131 → sinkReact (.data d) s = .next t →
    (4 ≤ s.sink.column.toNat → t.sink.ramAt s.sink.page s.sink.column = some d) ∧
    (∀ page column, (page, column) ≠ (s.sink.page, s.sink.column) →
      t.sink.ramAt page column = s.sink.ramAt page column) ∧
    t.sink.page = s.sink.page ∧
    (s.sink.column.toNat < 131 → t.sink.column.toNat = s.sink.column.toNat + 1)) ∧
  (∀ (s : State) (ms : Nat), sinkReact (.delay ms) s = .next s) ∧
  (∀ (s : State) (column line : Byte), line.toNat ≤ 15 →
    (drain (seekEvents column line) s).sink.page.toNat = line.toNat ∧
    (drain (seekEvents column line) s).sink.column = column ∧
    (drain (seekEvents column line) s).sink.ram = s.sink.ram)

/-- R32: once the sink has taken what waits, its pointer is where the cursor says; every step keeps that, but one that
takes a glyph WRITE at the right edge, or leaves the line above 15. -/
def Obligations.PointerStaysInStepWithCursor : Prop :=
  ∀ s t : State, s.initialised = true → s.noReset = true → s.hostKeepsStep = true → s.drained.inStep = true →
    step s = .next t → t.cursorLine.toNat ≤ 15 → t.drained.inStep = true

/-- R35, R122, 95 T-I1: once the sink has taken the stream of a BEGIN or a CLEAR, whatever waited before it, every byte
of the visible area is zero, and the pointer is at the cursor. It rests on the model's choice that the addressing
commands keep their meaning after INIT_SEQ (log 12). -/
def Obligations.ClearedDisplayIsBlank : Prop :=
  ∀ s : State, ∃ tBegin tClear : State, exec .begin s = .next tBegin ∧ exec .clear s = .next tClear ∧
    (∀ page column, visible page column = true →
      tBegin.drained.sink.ramAt page column = some 0 ∧ tClear.drained.sink.ramAt page column = some 0) ∧
    tBegin.drained.inStep = true ∧ tClear.drained.inStep = true

/-- R164: the byte of row r and column x of a blit lands at `RAM[sl + r][sc + x]`; whether a hidden column stores it is
free (log 13). -/
def Obligations.BitmapLandsRowMajor : Prop :=
  ∀ (columns lines : Byte) (ptr : Addr) (s t : State) (r x : Nat), s.initialised = true →
    exec (.drawBitmap columns lines ptr) s = .next t → r < blitHeight lines s → x < blitWidth columns s →
    4 ≤ s.cursorColumn.toNat + x →
    t.drained.sink.ramAt (BitVec.ofNat 4 (s.cursorLine.toNat + r)) (u8 (s.cursorColumn.toNat + x)) =
      some (s.sourceByte (u16 (ptr.toNat + r * columns.toNat + x)))

/-- R56, R170, R174: a bar drawn at a visible column, inside the display's pages, lights exactly the lowest `value`
pixels of its region. That R56's mapping from RAM to glass stands after every command is the model's choice (log 30). -/
def Obligations.BarLightsItsLowestPixels : Prop :=
  ∀ (lines value : Byte) (s t : State) (y : Nat), 4 ≤ s.cursorColumn.toNat → s.cursorColumn.toNat ≤ 131 →
    regionFits lines s = true → exec (.drawColumn lines value) s = .next t → y < 8 * lines.toNat →
    t.drained.sink.pixel (s.cursorColumn.toNat - 4) (8 * s.cursorLine.toNat + y) =
      some (decide (8 * lines.toNat - min value.toNat (8 * lines.toNat) ≤ y))

/-- R53, R145, R146: a glyph written in step with the controller, from the table, from source memory or from an empty
slot, lands in the six cells from the cursor on; whether a hidden column stores its byte is free (log 13). That the WRITE
completes with a widthPx of 0 (R8) and before BEGIN (R202) too is the model's choice (logs 1, 16). -/
def Obligations.GlyphLandsAtTheCursor : Prop :=
  ∀ (chr : Byte) (s : State), s.drained.inStep = true → s.cursorLine.toNat ≤ 7 → s.cursorColumn.toNat ≤ 126 →
    chr.toNat ≤ 0x7F → chr.toNat ≠ 0x0A → chr.toNat ≠ 0x0D →
    let cell (t : State) (k : Nat) : Option Byte :=
      t.drained.sink.ramAt (BitVec.ofNat 4 s.cursorLine.toNat) (u8 (s.cursorColumn.toNat + k))
    let lands (i : Instr) (pattern : Nat → Byte) : Prop :=
      ∃ t, exec i s = .next t ∧ (∀ k < 5, 4 ≤ s.cursorColumn.toNat + k → cell t k = some (pattern k)) ∧ cell t 5 = some 0
    (0x20 ≤ chr.toNat → lands (.writePrint chr) (glyphRom (chr.toNat - 0x20))) ∧
    (∀ ptr, chr.toNat < 0x20 → s.slot chr = some ptr →
      lands (.writeCtrl chr) fun k => s.sourceByte (u16 (ptr.toNat + k))) ∧
    (chr.toNat < 0x20 → s.slot chr = none → lands (.writeCtrl chr) fun _ => 0)

/-! ## Invariants -/

/-- R50, R59, R70, R81: every step keeps both memories in canonical form and inside their spaces, and events waiting
only while a response is due. -/
def Obligations.StepKeepsWellFormedState : Prop :=
  ∀ s t : State, s.wf = true → step s = .next t → t.wf = true

/-- R34, R200: the state right after reset, in the values the spec gives. -/
def Obligations.ResetStateIsWellFormed : Prop :=
  State.reset.wf = true ∧ State.reset.ready = true ∧ State.reset.out = [] ∧ (∀ c, State.reset.slot c = none)

/-- R34, R200: what hardware reset does when the host applies it to a ready block. That it comes between operations,
and leaves the source memory, the transport's schedule and the host's remaining actions, is the model's choice
(log 22); the four registers it leaves unwritten are free values (log 1). -/
def Obligations.HardwareResetLeaves : Prop :=
  ∀ (s : State) (rest : List HostAction), s.ready = true → s.host = .reset :: rest →
    ∃ t, step s = .next t ∧ (∀ c, t.slot c = none) ∧ t.out = [] ∧ t.ready = true ∧ t.responses = [] ∧ t.reads = [] ∧
      t.mem = s.mem ∧ t.host = rest ∧ t.outReady = s.outReady

/-- R36: the geometry BEGIN writes stays, until hardware reset. -/
def Obligations.StepKeepsGeometry : Prop :=
  ∀ s t : State, s.initialised = true → s.noReset = true → step s = .next t → t.initialised = true

/-- R36: with dutiful requests the cursor stays in 0..127 and 0..7. -/
def Obligations.StepKeepsCursorInRange : Prop :=
  ∀ s t : State, s.initialised = true → s.cursorInRange = true → s.noReset = true → s.hostDutiful = true →
    step s = .next t → t.cursorInRange = true

/-! ## The transport -/

/-- R57, R89, R90: the framed transfer of a byte. -/
def Obligations.TransferIsFramedMsbFirst : Prop :=
  ∀ b : Byte,
    let bits : List LineAction := [b.getMsbD 0, b.getMsbD 1, b.getMsbD 2, b.getMsbD 3, b.getMsbD 4, b.getMsbD 5,
      b.getMsbD 6, b.getMsbD 7].map fun bit => .shiftOut (BitVec.ofBool bit)
    (Event.cmd b).frame = [.commandSelect 0, .select 0] ++ bits ++ [.select 1] ∧
    (Event.data b).frame = [.commandSelect 1, .select 0] ++ bits ++ [.select 1]
end

