-- ==== Sys2Proof/Laws/Decode.lean ====
section
/-!
SUPPORT. The fields of a request word, and what the decoders answer.
-/

namespace Sys2Proof

variable (op a b : Byte) (ptr : Addr)

/-- The bits of a word, by field (R82). -/
theorem Request.getLsbD_ofFields (i : Nat) :
    (Request.ofFields op a b ptr).getLsbD i =
      if i < 16 then ptr.getLsbD i else if i < 24 then b.getLsbD (i - 16)
      else if i < 32 then a.getLsbD (i - 24) else op.getLsbD (i - 32) := by
  unfold Request.ofFields
  simp only [BitVec.getLsbD_append]
  split_ifs <;> first | omega | rfl

@[simp] theorem Request.op_ofFields : Request.op (Request.ofFields op a b ptr) = op := by
  apply BitVec.eq_of_getLsbD_eq; intro i hi
  simp only [Request.op, BitVec.getLsbD_extractLsb', Request.getLsbD_ofFields]
  rw [if_neg (by omega), if_neg (by omega), if_neg (by omega)]; simp [hi]

@[simp] theorem Request.a_ofFields : Request.a (Request.ofFields op a b ptr) = a := by
  apply BitVec.eq_of_getLsbD_eq; intro i hi
  simp only [Request.a, BitVec.getLsbD_extractLsb', Request.getLsbD_ofFields]
  rw [if_neg (by omega), if_neg (by omega), if_pos (by omega)]; simp [hi]

@[simp] theorem Request.b_ofFields : Request.b (Request.ofFields op a b ptr) = b := by
  apply BitVec.eq_of_getLsbD_eq; intro i hi
  simp only [Request.b, BitVec.getLsbD_extractLsb', Request.getLsbD_ofFields]
  rw [if_neg (by omega), if_pos (by omega)]; simp [hi]

@[simp] theorem Request.ptr_ofFields : Request.ptr (Request.ofFields op a b ptr) = ptr := by
  apply BitVec.eq_of_getLsbD_eq; intro i hi
  simp only [Request.ptr, BitVec.getLsbD_extractLsb', Request.getLsbD_ofFields]
  rw [if_pos (by omega)]; simp [hi]

/-- A word is its fields (R82). -/
theorem Request.ofFields_fields (w : Request) :
    Request.ofFields (Request.op w) (Request.a w) (Request.b w) (Request.ptr w) = w := by
  apply BitVec.eq_of_getLsbD_eq; intro i hi
  simp only [Request.getLsbD_ofFields, Request.op, Request.a, Request.b, Request.ptr, BitVec.getLsbD_extractLsb']
  split_ifs
  · simp [*]
  · rw [show 16 + (i - 16) = i by omega]; simp; omega
  · rw [show 24 + (i - 24) = i by omega]; simp; omega
  · rw [show 32 + (i - 32) = i by omega]; simp; omega

/-- The class WRITE's operand falls in is a well-formed request (R95). -/
theorem Instr.write_wf (chr : Byte) : (Instr.write chr).wf = true ∧ (Instr.write chr).isRequest = true := by
  unfold Instr.write
  repeat' split
  all_goals simp_all [Instr.wf, Instr.isRequest, isControl]

/-- The class CREATECHAR's operand falls in is a well-formed request (R96). -/
theorem Instr.create_wf (code : Byte) (ptr : Addr) :
    (Instr.create code ptr).wf = true ∧ (Instr.create code ptr).isRequest = true := by
  unfold Instr.create
  split <;> simp_all [Instr.wf, Instr.isRequest]

/-- What a decoded request is. -/
theorem decodeRequest_wf {w : Request} {i : Instr} (h : decodeRequest w = .ok i) :
    i.wf = true ∧ i.isRequest = true := by
  unfold decodeRequest at h
  split at h <;> first
    | (injection h with h; subst h; first | exact ⟨rfl, rfl⟩ | exact Instr.write_wf _ | exact Instr.create_wf _ _)
    | simp at h

/-- What a decoded command is. -/
theorem decodeCommand_cases {b : Byte} {i : Instr} (h : decodeCommand b = .ok i) :
    (∃ page, i = .pageSel page) ∨ (∃ high, i = .colHi high) ∨ ∃ low, i = .colLo low := by
  unfold decodeCommand at h
  split at h <;> first
    | (injection h with h; subst h; simp)
    | simp at h

end Sys2Proof
end

