-- ==== Sys2Proof/Laws/Memory.lean ====
section
/-!
SUPPORT. Memory as data: a read after a write, and the canonical form that every write keeps (R50, R62, R217).
-/

namespace Sys2Proof.Machine

theorem Memory.lookup_write_same (m : Memory) (a : Nat) (b : Byte) :
    Memory.lookup (Memory.write m a b) a = some b := by
  induction m with
  | nil => simp [Memory.write, Memory.lookup]
  | cons c m ih =>
    simp only [Memory.write]
    split
    · simp [Memory.lookup]
    · split
      · simp [Memory.lookup]
      · simp only [Memory.lookup]
        rw [if_neg (by omega)]
        exact ih

theorem Memory.lookup_write_other (m : Memory) {a a' : Nat} (b : Byte) (h : a' ≠ a) :
    Memory.lookup (Memory.write m a b) a' = Memory.lookup m a' := by
  induction m with
  | nil => simp [Memory.write, Memory.lookup, h.symm]
  | cons c m ih =>
    simp only [Memory.write]
    split
    · simp [Memory.lookup, h.symm]
    · split
      · rename_i hac
        simp [Memory.lookup, ← hac, h.symm]
      · simp only [Memory.lookup, ih]

/-- The first address of a written list is the written address or the old first one. -/
theorem Memory.rising_cons_write {c : Host.Cell} {m : Memory} {a : Nat} (b : Byte)
    (hc : Memory.rising (c :: m) = true) (ha : c.1 < a) : Memory.rising (c :: Memory.write m a b) = true := by
  induction m generalizing c with
  | nil => simp [Memory.write, Memory.rising, ha]
  | cons d m ih =>
    simp only [Memory.rising, Bool.and_eq_true, decide_eq_true_eq] at hc
    simp only [Memory.write]
    split
    · rename_i h
      simp [Memory.rising, ha, h, hc.2]
    · split
      · rename_i h
        subst h
        have hrest : Memory.rising ((d.1, b) :: m) = true := by
          cases m with
          | nil => simp [Memory.rising]
          | cons e m => simpa [Memory.rising] using hc.2
        simp [Memory.rising, ha, hrest]
      · have := ih hc.2 (by omega)
        simp [Memory.rising, hc.1, this]

theorem Memory.rising_write {m : Memory} (a : Nat) (b : Byte) (h : Memory.rising m = true) :
    Memory.rising (Memory.write m a b) = true := by
  cases m with
  | nil => rfl
  | cons c m =>
    simp only [Memory.write]
    split
    · rename_i hlt
      simp [Memory.rising, hlt, h]
    · split
      · rename_i heq
        subst heq
        cases m with
        | nil => rfl
        | cons d m => simpa [Memory.rising] using h
      · exact Memory.rising_cons_write b h (by omega)

theorem Memory.all_write {m : Memory} {a : Nat} (b : Byte) {p : Host.Cell → Bool} (h : m.all p = true)
    (ha : p (a, b) = true) : (Memory.write m a b).all p = true := by
  induction m with
  | nil => simp [Memory.write, ha]
  | cons c m ih =>
    simp only [List.all_cons, Bool.and_eq_true] at h
    simp only [Memory.write]
    split
    · simp [ha, h.1, h.2]
    · split
      · simp [ha, h.2]
      · simp [h.1, ih h.2]

/-- A write inside the memory keeps the canonical form. -/
theorem Memory.wfIn_write {size : Nat} {m : Memory} {a : Nat} (b : Byte) (h : Memory.wfIn size m = true)
    (ha : a < size) : Memory.wfIn size (Memory.write m a b) = true := by
  simp only [Memory.wfIn, Bool.and_eq_true] at h ⊢
  exact ⟨Memory.rising_write a b h.1, Memory.all_write b h.2 (by simpa using ha)⟩

theorem Memory.wf_write {m : Memory} (a : Addr) (b : Byte) (h : Memory.wf m = true) :
    Memory.wf (Memory.write m a.toNat b) = true :=
  Memory.wfIn_write b h a.isLt

/-- Both memories have the form right after reset. -/
theorem reset_mem_wf : Memory.wf State.reset.mem = true ∧ Memory.wfIn 4096 State.reset.sink.ram = true := ⟨rfl, rfl⟩

/-- The host's write is what a later read of that address gives (R68, R217). -/
theorem storeSource_sourceByte_same (a : Addr) (b : Byte) (s : State) : (storeSource a b s).sourceByte a = b := by
  simp [State.sourceByte, storeSource, Memory.lookup_write_same]

theorem storeSource_sourceByte_other {a a' : Addr} (b : Byte) (s : State) (h : a' ≠ a) :
    (storeSource a b s).sourceByte a' = s.sourceByte a' := by
  have : a'.toNat ≠ a.toNat := fun e => h (BitVec.eq_of_toNat_eq e)
  simp [State.sourceByte, storeSource, Memory.lookup_write_other _ _ this]

end Sys2Proof.Machine
end

