-- ==== Sys2Proof/Laws/State.lean ====
section
/-!
SUPPORT. What each state update leaves in each field, one lemma per field per update, so that no later proof unfolds
an update.
-/

namespace Sys2Proof.Machine

variable (s : State)

/-! ## setCursor -/

@[simp] theorem setCursor_cursorColumn (column line : Byte) :
    (setCursor column line s).cursorColumn = column := rfl
@[simp] theorem setCursor_cursorLine (column line : Byte) : (setCursor column line s).cursorLine = line := rfl
@[simp] theorem setCursor_widthPx (column line : Byte) : (setCursor column line s).widthPx = s.widthPx := rfl
@[simp] theorem setCursor_heightPx (column line : Byte) : (setCursor column line s).heightPx = s.heightPx := rfl
@[simp] theorem setCursor_slots (column line : Byte) : (setCursor column line s).slots = s.slots := rfl
@[simp] theorem setCursor_delivered (column line : Byte) : (setCursor column line s).delivered = s.delivered := rfl
@[simp] theorem setCursor_port (column line : Byte) : (setCursor column line s).port = s.port := rfl
@[simp] theorem setCursor_response (column line : Byte) : (setCursor column line s).response = s.response := rfl
@[simp] theorem setCursor_responses (column line : Byte) : (setCursor column line s).responses = s.responses := rfl
@[simp] theorem setCursor_reads (column line : Byte) : (setCursor column line s).reads = s.reads := rfl
@[simp] theorem setCursor_host (column line : Byte) : (setCursor column line s).host = s.host := rfl
@[simp] theorem setCursor_mem (column line : Byte) : (setCursor column line s).mem = s.mem := rfl
@[simp] theorem setCursor_sink (column line : Byte) : (setCursor column line s).sink = s.sink := rfl
@[simp] theorem setCursor_outReady (column line : Byte) : (setCursor column line s).outReady = s.outReady := rfl
@[simp] theorem setCursor_tick (column line : Byte) : (setCursor column line s).tick = s.tick := rfl

/-! ## setGeometry -/

@[simp] theorem setGeometry_cursorColumn (width height : Byte) :
    (setGeometry width height s).cursorColumn = s.cursorColumn := rfl
@[simp] theorem setGeometry_cursorLine (width height : Byte) :
    (setGeometry width height s).cursorLine = s.cursorLine := rfl
@[simp] theorem setGeometry_widthPx (width height : Byte) : (setGeometry width height s).widthPx = width := rfl
@[simp] theorem setGeometry_heightPx (width height : Byte) : (setGeometry width height s).heightPx = height := rfl
@[simp] theorem setGeometry_slots (width height : Byte) : (setGeometry width height s).slots = s.slots := rfl
@[simp] theorem setGeometry_delivered (width height : Byte) :
    (setGeometry width height s).delivered = s.delivered := rfl
@[simp] theorem setGeometry_port (width height : Byte) : (setGeometry width height s).port = s.port := rfl
@[simp] theorem setGeometry_response (width height : Byte) :
    (setGeometry width height s).response = s.response := rfl
@[simp] theorem setGeometry_responses (width height : Byte) :
    (setGeometry width height s).responses = s.responses := rfl
@[simp] theorem setGeometry_reads (width height : Byte) : (setGeometry width height s).reads = s.reads := rfl
@[simp] theorem setGeometry_host (width height : Byte) : (setGeometry width height s).host = s.host := rfl
@[simp] theorem setGeometry_mem (width height : Byte) : (setGeometry width height s).mem = s.mem := rfl
@[simp] theorem setGeometry_sink (width height : Byte) : (setGeometry width height s).sink = s.sink := rfl
@[simp] theorem setGeometry_outReady (width height : Byte) : (setGeometry width height s).outReady = s.outReady := rfl
@[simp] theorem setGeometry_tick (width height : Byte) : (setGeometry width height s).tick = s.tick := rfl

/-! ## emit -/

@[simp] theorem emit_cursorColumn (events : List Event) : (emit events s).cursorColumn = s.cursorColumn := rfl
@[simp] theorem emit_cursorLine (events : List Event) : (emit events s).cursorLine = s.cursorLine := rfl
@[simp] theorem emit_widthPx (events : List Event) : (emit events s).widthPx = s.widthPx := rfl
@[simp] theorem emit_heightPx (events : List Event) : (emit events s).heightPx = s.heightPx := rfl
@[simp] theorem emit_slots (events : List Event) : (emit events s).slots = s.slots := rfl
@[simp] theorem emit_delivered (events : List Event) : (emit events s).delivered = s.delivered := rfl
@[simp] theorem emit_port (events : List Event) : (emit events s).port = s.port ++ events := rfl
@[simp] theorem emit_response (events : List Event) : (emit events s).response = s.response := rfl
@[simp] theorem emit_responses (events : List Event) : (emit events s).responses = s.responses := rfl
@[simp] theorem emit_reads (events : List Event) : (emit events s).reads = s.reads := rfl
@[simp] theorem emit_host (events : List Event) : (emit events s).host = s.host := rfl
@[simp] theorem emit_mem (events : List Event) : (emit events s).mem = s.mem := rfl
@[simp] theorem emit_sink (events : List Event) : (emit events s).sink = s.sink := rfl
@[simp] theorem emit_outReady (events : List Event) : (emit events s).outReady = s.outReady := rfl
@[simp] theorem emit_tick (events : List Event) : (emit events s).tick = s.tick := rfl

/-! ## emitZeros -/

@[simp] theorem emitZeros_cursorColumn (n : Nat) : (emitZeros n s).cursorColumn = s.cursorColumn := rfl
@[simp] theorem emitZeros_cursorLine (n : Nat) : (emitZeros n s).cursorLine = s.cursorLine := rfl
@[simp] theorem emitZeros_widthPx (n : Nat) : (emitZeros n s).widthPx = s.widthPx := rfl
@[simp] theorem emitZeros_heightPx (n : Nat) : (emitZeros n s).heightPx = s.heightPx := rfl
@[simp] theorem emitZeros_slots (n : Nat) : (emitZeros n s).slots = s.slots := rfl
@[simp] theorem emitZeros_delivered (n : Nat) : (emitZeros n s).delivered = s.delivered := rfl
@[simp] theorem emitZeros_port (n : Nat) : (emitZeros n s).port = s.port ++ List.replicate n (.data 0) := rfl
@[simp] theorem emitZeros_response (n : Nat) : (emitZeros n s).response = s.response := rfl
@[simp] theorem emitZeros_responses (n : Nat) : (emitZeros n s).responses = s.responses := rfl
@[simp] theorem emitZeros_reads (n : Nat) : (emitZeros n s).reads = s.reads := rfl
@[simp] theorem emitZeros_host (n : Nat) : (emitZeros n s).host = s.host := rfl
@[simp] theorem emitZeros_mem (n : Nat) : (emitZeros n s).mem = s.mem := rfl
@[simp] theorem emitZeros_sink (n : Nat) : (emitZeros n s).sink = s.sink := rfl
@[simp] theorem emitZeros_outReady (n : Nat) : (emitZeros n s).outReady = s.outReady := rfl
@[simp] theorem emitZeros_tick (n : Nat) : (emitZeros n s).tick = s.tick := rfl

/-! ## emitBytes -/

@[simp] theorem emitBytes_cursorColumn (bytes : List Byte) :
    (emitBytes bytes s).cursorColumn = s.cursorColumn := rfl
@[simp] theorem emitBytes_cursorLine (bytes : List Byte) : (emitBytes bytes s).cursorLine = s.cursorLine := rfl
@[simp] theorem emitBytes_widthPx (bytes : List Byte) : (emitBytes bytes s).widthPx = s.widthPx := rfl
@[simp] theorem emitBytes_heightPx (bytes : List Byte) : (emitBytes bytes s).heightPx = s.heightPx := rfl
@[simp] theorem emitBytes_slots (bytes : List Byte) : (emitBytes bytes s).slots = s.slots := rfl
@[simp] theorem emitBytes_delivered (bytes : List Byte) : (emitBytes bytes s).delivered = s.delivered := rfl
@[simp] theorem emitBytes_port (bytes : List Byte) :
    (emitBytes bytes s).port = s.port ++ bytes.map Event.data := rfl
@[simp] theorem emitBytes_response (bytes : List Byte) : (emitBytes bytes s).response = s.response := rfl
@[simp] theorem emitBytes_responses (bytes : List Byte) : (emitBytes bytes s).responses = s.responses := rfl
@[simp] theorem emitBytes_reads (bytes : List Byte) : (emitBytes bytes s).reads = s.reads := rfl
@[simp] theorem emitBytes_host (bytes : List Byte) : (emitBytes bytes s).host = s.host := rfl
@[simp] theorem emitBytes_mem (bytes : List Byte) : (emitBytes bytes s).mem = s.mem := rfl
@[simp] theorem emitBytes_sink (bytes : List Byte) : (emitBytes bytes s).sink = s.sink := rfl
@[simp] theorem emitBytes_outReady (bytes : List Byte) : (emitBytes bytes s).outReady = s.outReady := rfl
@[simp] theorem emitBytes_tick (bytes : List Byte) : (emitBytes bytes s).tick = s.tick := rfl

/-! ## copySource -/

@[simp] theorem copySource_cursorColumn (addrs : List Addr) :
    (copySource addrs s).cursorColumn = s.cursorColumn := rfl
@[simp] theorem copySource_cursorLine (addrs : List Addr) : (copySource addrs s).cursorLine = s.cursorLine := rfl
@[simp] theorem copySource_widthPx (addrs : List Addr) : (copySource addrs s).widthPx = s.widthPx := rfl
@[simp] theorem copySource_heightPx (addrs : List Addr) : (copySource addrs s).heightPx = s.heightPx := rfl
@[simp] theorem copySource_slots (addrs : List Addr) : (copySource addrs s).slots = s.slots := rfl
@[simp] theorem copySource_delivered (addrs : List Addr) : (copySource addrs s).delivered = s.delivered := rfl
@[simp] theorem copySource_port (addrs : List Addr) :
    (copySource addrs s).port = s.port ++ (addrs.map s.sourceByte).map Event.data := rfl
@[simp] theorem copySource_response (addrs : List Addr) : (copySource addrs s).response = s.response := rfl
@[simp] theorem copySource_responses (addrs : List Addr) : (copySource addrs s).responses = s.responses := rfl
@[simp] theorem copySource_reads (addrs : List Addr) : (copySource addrs s).reads = s.reads ++ addrs := rfl
@[simp] theorem copySource_host (addrs : List Addr) : (copySource addrs s).host = s.host := rfl
@[simp] theorem copySource_mem (addrs : List Addr) : (copySource addrs s).mem = s.mem := rfl
@[simp] theorem copySource_sink (addrs : List Addr) : (copySource addrs s).sink = s.sink := rfl
@[simp] theorem copySource_outReady (addrs : List Addr) : (copySource addrs s).outReady = s.outReady := rfl
@[simp] theorem copySource_tick (addrs : List Addr) : (copySource addrs s).tick = s.tick := rfl

/-! ## seek -/

@[simp] theorem seek_cursorColumn (column line : Byte) : (seek column line s).cursorColumn = column := rfl
@[simp] theorem seek_cursorLine (column line : Byte) : (seek column line s).cursorLine = line := rfl
@[simp] theorem seek_widthPx (column line : Byte) : (seek column line s).widthPx = s.widthPx := rfl
@[simp] theorem seek_heightPx (column line : Byte) : (seek column line s).heightPx = s.heightPx := rfl
@[simp] theorem seek_slots (column line : Byte) : (seek column line s).slots = s.slots := rfl
@[simp] theorem seek_delivered (column line : Byte) : (seek column line s).delivered = s.delivered := rfl
@[simp] theorem seek_port (column line : Byte) :
    (seek column line s).port = s.port ++ seekEvents column line := rfl
@[simp] theorem seek_response (column line : Byte) : (seek column line s).response = s.response := rfl
@[simp] theorem seek_responses (column line : Byte) : (seek column line s).responses = s.responses := rfl
@[simp] theorem seek_reads (column line : Byte) : (seek column line s).reads = s.reads := rfl
@[simp] theorem seek_host (column line : Byte) : (seek column line s).host = s.host := rfl
@[simp] theorem seek_mem (column line : Byte) : (seek column line s).mem = s.mem := rfl
@[simp] theorem seek_sink (column line : Byte) : (seek column line s).sink = s.sink := rfl
@[simp] theorem seek_outReady (column line : Byte) : (seek column line s).outReady = s.outReady := rfl
@[simp] theorem seek_tick (column line : Byte) : (seek column line s).tick = s.tick := rfl

/-! ## respond -/

@[simp] theorem respond_cursorColumn (count : Bit) : (respond count s).cursorColumn = s.cursorColumn := rfl
@[simp] theorem respond_cursorLine (count : Bit) : (respond count s).cursorLine = s.cursorLine := rfl
@[simp] theorem respond_widthPx (count : Bit) : (respond count s).widthPx = s.widthPx := rfl
@[simp] theorem respond_heightPx (count : Bit) : (respond count s).heightPx = s.heightPx := rfl
@[simp] theorem respond_slots (count : Bit) : (respond count s).slots = s.slots := rfl
@[simp] theorem respond_delivered (count : Bit) : (respond count s).delivered = s.delivered := rfl
@[simp] theorem respond_port (count : Bit) : (respond count s).port = s.port := rfl
@[simp] theorem respond_response (count : Bit) : (respond count s).response = some count := rfl
@[simp] theorem respond_responses (count : Bit) : (respond count s).responses = s.responses := rfl
@[simp] theorem respond_reads (count : Bit) : (respond count s).reads = s.reads := rfl
@[simp] theorem respond_host (count : Bit) : (respond count s).host = s.host := rfl
@[simp] theorem respond_mem (count : Bit) : (respond count s).mem = s.mem := rfl
@[simp] theorem respond_sink (count : Bit) : (respond count s).sink = s.sink := rfl
@[simp] theorem respond_outReady (count : Bit) : (respond count s).outReady = s.outReady := rfl
@[simp] theorem respond_tick (count : Bit) : (respond count s).tick = s.tick := rfl

/-! ## waitForTransport -/

@[simp] theorem waitForTransport_cursorColumn : (waitForTransport s).cursorColumn = s.cursorColumn := rfl
@[simp] theorem waitForTransport_cursorLine : (waitForTransport s).cursorLine = s.cursorLine := rfl
@[simp] theorem waitForTransport_widthPx : (waitForTransport s).widthPx = s.widthPx := rfl
@[simp] theorem waitForTransport_heightPx : (waitForTransport s).heightPx = s.heightPx := rfl
@[simp] theorem waitForTransport_slots : (waitForTransport s).slots = s.slots := rfl
@[simp] theorem waitForTransport_delivered : (waitForTransport s).delivered = s.delivered := rfl
@[simp] theorem waitForTransport_port : (waitForTransport s).port = s.port := rfl
@[simp] theorem waitForTransport_outReady : (waitForTransport s).outReady = s.outReady.tail := rfl
@[simp] theorem waitForTransport_response : (waitForTransport s).response = s.response := rfl
@[simp] theorem waitForTransport_responses : (waitForTransport s).responses = s.responses := rfl
@[simp] theorem waitForTransport_reads : (waitForTransport s).reads = s.reads := rfl
@[simp] theorem waitForTransport_host : (waitForTransport s).host = s.host := rfl
@[simp] theorem waitForTransport_mem : (waitForTransport s).mem = s.mem := rfl
@[simp] theorem waitForTransport_sink : (waitForTransport s).sink = s.sink := rfl
@[simp] theorem waitForTransport_tick : (waitForTransport s).tick = s.tick := rfl

/-! ## takeEvent -/

@[simp] theorem takeEvent_cursorColumn (e : Event) (rest : List Event) :
    (takeEvent e rest s).cursorColumn = s.cursorColumn := rfl
@[simp] theorem takeEvent_cursorLine (e : Event) (rest : List Event) :
    (takeEvent e rest s).cursorLine = s.cursorLine := rfl
@[simp] theorem takeEvent_widthPx (e : Event) (rest : List Event) : (takeEvent e rest s).widthPx = s.widthPx := rfl
@[simp] theorem takeEvent_heightPx (e : Event) (rest : List Event) :
    (takeEvent e rest s).heightPx = s.heightPx := rfl
@[simp] theorem takeEvent_slots (e : Event) (rest : List Event) : (takeEvent e rest s).slots = s.slots := rfl
@[simp] theorem takeEvent_delivered (e : Event) (rest : List Event) :
    (takeEvent e rest s).delivered = s.delivered ++ [e] := rfl
@[simp] theorem takeEvent_port (e : Event) (rest : List Event) : (takeEvent e rest s).port = rest := rfl
@[simp] theorem takeEvent_response (e : Event) (rest : List Event) :
    (takeEvent e rest s).response = s.response := rfl
@[simp] theorem takeEvent_responses (e : Event) (rest : List Event) :
    (takeEvent e rest s).responses = s.responses := rfl
@[simp] theorem takeEvent_reads (e : Event) (rest : List Event) : (takeEvent e rest s).reads = s.reads := rfl
@[simp] theorem takeEvent_host (e : Event) (rest : List Event) : (takeEvent e rest s).host = s.host := rfl
@[simp] theorem takeEvent_mem (e : Event) (rest : List Event) : (takeEvent e rest s).mem = s.mem := rfl
@[simp] theorem takeEvent_sink (e : Event) (rest : List Event) : (takeEvent e rest s).sink = s.sink := rfl
@[simp] theorem takeEvent_outReady (e : Event) (rest : List Event) :
    (takeEvent e rest s).outReady = readyAfter e s.outReady := rfl
@[simp] theorem takeEvent_tick (e : Event) (rest : List Event) : (takeEvent e rest s).tick = s.tick + 1 := rfl

/-! ## deliverResponse -/

@[simp] theorem deliverResponse_cursorColumn (count : Bit) :
    (deliverResponse count s).cursorColumn = s.cursorColumn := rfl
@[simp] theorem deliverResponse_cursorLine (count : Bit) :
    (deliverResponse count s).cursorLine = s.cursorLine := rfl
@[simp] theorem deliverResponse_widthPx (count : Bit) : (deliverResponse count s).widthPx = s.widthPx := rfl
@[simp] theorem deliverResponse_heightPx (count : Bit) : (deliverResponse count s).heightPx = s.heightPx := rfl
@[simp] theorem deliverResponse_slots (count : Bit) : (deliverResponse count s).slots = s.slots := rfl
@[simp] theorem deliverResponse_delivered (count : Bit) : (deliverResponse count s).delivered = s.delivered := rfl
@[simp] theorem deliverResponse_port (count : Bit) : (deliverResponse count s).port = s.port := rfl
@[simp] theorem deliverResponse_response (count : Bit) : (deliverResponse count s).response = none := rfl
@[simp] theorem deliverResponse_responses (count : Bit) :
    (deliverResponse count s).responses = s.responses ++ [count] := rfl
@[simp] theorem deliverResponse_reads (count : Bit) : (deliverResponse count s).reads = s.reads := rfl
@[simp] theorem deliverResponse_host (count : Bit) : (deliverResponse count s).host = s.host := rfl
@[simp] theorem deliverResponse_mem (count : Bit) : (deliverResponse count s).mem = s.mem := rfl
@[simp] theorem deliverResponse_sink (count : Bit) : (deliverResponse count s).sink = s.sink := rfl
@[simp] theorem deliverResponse_outReady (count : Bit) : (deliverResponse count s).outReady = s.outReady := rfl
@[simp] theorem deliverResponse_tick (count : Bit) : (deliverResponse count s).tick = s.tick := rfl

/-! ## takeAction -/

@[simp] theorem takeAction_cursorColumn (rest : List HostAction) :
    (takeAction rest s).cursorColumn = s.cursorColumn := rfl
@[simp] theorem takeAction_cursorLine (rest : List HostAction) :
    (takeAction rest s).cursorLine = s.cursorLine := rfl
@[simp] theorem takeAction_widthPx (rest : List HostAction) : (takeAction rest s).widthPx = s.widthPx := rfl
@[simp] theorem takeAction_heightPx (rest : List HostAction) : (takeAction rest s).heightPx = s.heightPx := rfl
@[simp] theorem takeAction_slots (rest : List HostAction) : (takeAction rest s).slots = s.slots := rfl
@[simp] theorem takeAction_delivered (rest : List HostAction) : (takeAction rest s).delivered = s.delivered := rfl
@[simp] theorem takeAction_port (rest : List HostAction) : (takeAction rest s).port = s.port := rfl
@[simp] theorem takeAction_response (rest : List HostAction) : (takeAction rest s).response = s.response := rfl
@[simp] theorem takeAction_responses (rest : List HostAction) : (takeAction rest s).responses = s.responses := rfl
@[simp] theorem takeAction_reads (rest : List HostAction) : (takeAction rest s).reads = s.reads := rfl
@[simp] theorem takeAction_host (rest : List HostAction) : (takeAction rest s).host = rest := rfl
@[simp] theorem takeAction_mem (rest : List HostAction) : (takeAction rest s).mem = s.mem := rfl
@[simp] theorem takeAction_sink (rest : List HostAction) : (takeAction rest s).sink = s.sink := rfl
@[simp] theorem takeAction_outReady (rest : List HostAction) : (takeAction rest s).outReady = s.outReady := rfl
@[simp] theorem takeAction_tick (rest : List HostAction) : (takeAction rest s).tick = s.tick + 1 := rfl

/-! ## storeSource -/

@[simp] theorem storeSource_cursorColumn (a : Addr) (b : Byte) :
    (storeSource a b s).cursorColumn = s.cursorColumn := rfl
@[simp] theorem storeSource_cursorLine (a : Addr) (b : Byte) : (storeSource a b s).cursorLine = s.cursorLine := rfl
@[simp] theorem storeSource_widthPx (a : Addr) (b : Byte) : (storeSource a b s).widthPx = s.widthPx := rfl
@[simp] theorem storeSource_heightPx (a : Addr) (b : Byte) : (storeSource a b s).heightPx = s.heightPx := rfl
@[simp] theorem storeSource_slots (a : Addr) (b : Byte) : (storeSource a b s).slots = s.slots := rfl
@[simp] theorem storeSource_delivered (a : Addr) (b : Byte) : (storeSource a b s).delivered = s.delivered := rfl
@[simp] theorem storeSource_port (a : Addr) (b : Byte) : (storeSource a b s).port = s.port := rfl
@[simp] theorem storeSource_response (a : Addr) (b : Byte) : (storeSource a b s).response = s.response := rfl
@[simp] theorem storeSource_responses (a : Addr) (b : Byte) : (storeSource a b s).responses = s.responses := rfl
@[simp] theorem storeSource_reads (a : Addr) (b : Byte) : (storeSource a b s).reads = s.reads := rfl
@[simp] theorem storeSource_host (a : Addr) (b : Byte) : (storeSource a b s).host = s.host := rfl
@[simp] theorem storeSource_mem (a : Addr) (b : Byte) :
    (storeSource a b s).mem = Memory.write s.mem a.toNat b := rfl
@[simp] theorem storeSource_sink (a : Addr) (b : Byte) : (storeSource a b s).sink = s.sink := rfl
@[simp] theorem storeSource_outReady (a : Addr) (b : Byte) : (storeSource a b s).outReady = s.outReady := rfl
@[simp] theorem storeSource_tick (a : Addr) (b : Byte) : (storeSource a b s).tick = s.tick := rfl

/-! ## acceptData -/

@[simp] theorem acceptData_cursorColumn (d : Byte) : (acceptData d s).cursorColumn = s.cursorColumn := rfl
@[simp] theorem acceptData_cursorLine (d : Byte) : (acceptData d s).cursorLine = s.cursorLine := rfl
@[simp] theorem acceptData_widthPx (d : Byte) : (acceptData d s).widthPx = s.widthPx := rfl
@[simp] theorem acceptData_heightPx (d : Byte) : (acceptData d s).heightPx = s.heightPx := rfl
@[simp] theorem acceptData_slots (d : Byte) : (acceptData d s).slots = s.slots := rfl
@[simp] theorem acceptData_delivered (d : Byte) : (acceptData d s).delivered = s.delivered := rfl
@[simp] theorem acceptData_port (d : Byte) : (acceptData d s).port = s.port := rfl
@[simp] theorem acceptData_response (d : Byte) : (acceptData d s).response = s.response := rfl
@[simp] theorem acceptData_responses (d : Byte) : (acceptData d s).responses = s.responses := rfl
@[simp] theorem acceptData_reads (d : Byte) : (acceptData d s).reads = s.reads := rfl
@[simp] theorem acceptData_host (d : Byte) : (acceptData d s).host = s.host := rfl
@[simp] theorem acceptData_mem (d : Byte) : (acceptData d s).mem = s.mem := rfl
@[simp] theorem acceptData_sink (d : Byte) : (acceptData d s).sink = s.sink.acceptData s.tick d := rfl
@[simp] theorem acceptData_outReady (d : Byte) : (acceptData d s).outReady = s.outReady := rfl
@[simp] theorem acceptData_tick (d : Byte) : (acceptData d s).tick = s.tick := rfl

/-! ## acceptOther -/

@[simp] theorem acceptOther_cursorColumn : (acceptOther s).cursorColumn = s.cursorColumn := rfl
@[simp] theorem acceptOther_cursorLine : (acceptOther s).cursorLine = s.cursorLine := rfl
@[simp] theorem acceptOther_widthPx : (acceptOther s).widthPx = s.widthPx := rfl
@[simp] theorem acceptOther_heightPx : (acceptOther s).heightPx = s.heightPx := rfl
@[simp] theorem acceptOther_slots : (acceptOther s).slots = s.slots := rfl
@[simp] theorem acceptOther_delivered : (acceptOther s).delivered = s.delivered := rfl
@[simp] theorem acceptOther_port : (acceptOther s).port = s.port := rfl
@[simp] theorem acceptOther_response : (acceptOther s).response = s.response := rfl
@[simp] theorem acceptOther_responses : (acceptOther s).responses = s.responses := rfl
@[simp] theorem acceptOther_reads : (acceptOther s).reads = s.reads := rfl
@[simp] theorem acceptOther_host : (acceptOther s).host = s.host := rfl
@[simp] theorem acceptOther_mem : (acceptOther s).mem = s.mem := rfl
@[simp] theorem acceptOther_sink : (acceptOther s).sink = s.sink.otherCommand s.tick := rfl
@[simp] theorem acceptOther_outReady : (acceptOther s).outReady = s.outReady := rfl
@[simp] theorem acceptOther_tick : (acceptOther s).tick = s.tick := rfl

/-! ## registerGlyph: only `slots` may change -/

@[simp] theorem registerGlyph_cursorColumn (c : Byte) (ptr : Addr) :
    (registerGlyph c ptr s).cursorColumn = s.cursorColumn := by
  unfold registerGlyph; split <;> rfl
@[simp] theorem registerGlyph_cursorLine (c : Byte) (ptr : Addr) :
    (registerGlyph c ptr s).cursorLine = s.cursorLine := by
  unfold registerGlyph; split <;> rfl
@[simp] theorem registerGlyph_widthPx (c : Byte) (ptr : Addr) :
    (registerGlyph c ptr s).widthPx = s.widthPx := by
  unfold registerGlyph; split <;> rfl
@[simp] theorem registerGlyph_heightPx (c : Byte) (ptr : Addr) :
    (registerGlyph c ptr s).heightPx = s.heightPx := by
  unfold registerGlyph; split <;> rfl
@[simp] theorem registerGlyph_delivered (c : Byte) (ptr : Addr) :
    (registerGlyph c ptr s).delivered = s.delivered := by
  unfold registerGlyph; split <;> rfl
@[simp] theorem registerGlyph_port (c : Byte) (ptr : Addr) :
    (registerGlyph c ptr s).port = s.port := by
  unfold registerGlyph; split <;> rfl
@[simp] theorem registerGlyph_response (c : Byte) (ptr : Addr) :
    (registerGlyph c ptr s).response = s.response := by
  unfold registerGlyph; split <;> rfl
@[simp] theorem registerGlyph_responses (c : Byte) (ptr : Addr) :
    (registerGlyph c ptr s).responses = s.responses := by
  unfold registerGlyph; split <;> rfl
@[simp] theorem registerGlyph_reads (c : Byte) (ptr : Addr) :
    (registerGlyph c ptr s).reads = s.reads := by
  unfold registerGlyph; split <;> rfl
@[simp] theorem registerGlyph_host (c : Byte) (ptr : Addr) :
    (registerGlyph c ptr s).host = s.host := by
  unfold registerGlyph; split <;> rfl
@[simp] theorem registerGlyph_mem (c : Byte) (ptr : Addr) :
    (registerGlyph c ptr s).mem = s.mem := by
  unfold registerGlyph; split <;> rfl
@[simp] theorem registerGlyph_sink (c : Byte) (ptr : Addr) :
    (registerGlyph c ptr s).sink = s.sink := by
  unfold registerGlyph; split <;> rfl
@[simp] theorem registerGlyph_outReady (c : Byte) (ptr : Addr) :
    (registerGlyph c ptr s).outReady = s.outReady := by
  unfold registerGlyph; split <;> rfl
@[simp] theorem registerGlyph_tick (c : Byte) (ptr : Addr) :
    (registerGlyph c ptr s).tick = s.tick := by
  unfold registerGlyph; split <;> rfl

theorem registerGlyph_slots (c : Byte) (ptr : Addr) :
    (registerGlyph c ptr s).slots =
      if c.toNat < Config.space then s.slots.setIfInBounds c.toNat (some ptr) else s.slots := by
  unfold registerGlyph; split <;> rfl

/-- The byte read from source memory depends on the memory and the tick only. -/
theorem sourceByte_congr {s t : State} (hmem : t.mem = s.mem) (htick : t.tick = s.tick) :
    t.sourceByte = s.sourceByte := by
  funext a; simp [State.sourceByte, hmem, htick]

/-- A slot's pointer depends on the slot file only. -/
theorem slot_congr {s t : State} (h : t.slots = s.slots) : t.slot = s.slot := by
  funext c; simp [State.slot, h]

end Sys2Proof.Machine
end

