-- ==== Sys2Proof/Laws/Display.lean ====
section
/-!
SUPPORT. The sink as a function of the events it takes: one reaction, a list of reactions, and what a Seek does.
-/

namespace Sys2Proof.Machine

/-- The sink's reaction to one event (R71). -/
def Sink.react (tick : Nat) (e : Event) (k : Sink) : Sink :=
  match e with
  | .cmd b =>
    match decodeCommand b with
    | .ok (.pageSel page) => k.selectPage page
    | .ok (.colHi high) => k.setColumnHigh high
    | .ok (.colLo low) => k.setColumnLow low
    | _ => k.otherCommand tick
  | .data d => k.acceptData tick d
  | .delay _ => k

/-- The sink's reaction to events taken one a step, the first at this tick. -/
def Sink.reactAll (tick : Nat) : List Event → Sink → Sink
  | [], k => k
  | e :: events, k => Sink.reactAll (tick + 1) events (Sink.react tick e k)

@[simp] theorem Sink.reactAll_nil (tick : Nat) (k : Sink) : Sink.reactAll tick [] k = k := rfl

@[simp] theorem Sink.reactAll_cons (tick : Nat) (e : Event) (events : List Event) (k : Sink) :
    Sink.reactAll tick (e :: events) k = Sink.reactAll (tick + 1) events (Sink.react tick e k) := rfl

theorem Sink.reactAll_append (tick : Nat) (xs ys : List Event) (k : Sink) :
    Sink.reactAll tick (xs ++ ys) k = Sink.reactAll (tick + xs.length) ys (Sink.reactAll tick xs k) := by
  induction xs generalizing tick k with
  | nil => rfl
  | cons x xs ih =>
    simp only [List.cons_append, Sink.reactAll_cons, ih, List.length_cons]
    congr 1
    omega

/-- An event changes the sink only. -/
theorem sinkReact_eq (e : Event) (s : State) : sinkReact e s = .next { s with sink := Sink.react s.tick e s.sink } := by
  cases e with
  | delay ms => rfl
  | data d => rfl
  | cmd b =>
    simp only [sinkReact, decode, Sink.react]
    cases h : decodeCommand b with
    | error r => rfl
    | ok i =>
      obtain ⟨_, rfl⟩ | ⟨_, rfl⟩ | ⟨_, rfl⟩ := decodeCommand_cases h <;> rfl

/-- The transport's readiness after a list of events. -/
def readyAfterAll (events : List Event) (ready : List Bit) : List Bit :=
  events.foldl (fun r e => readyAfter e r) ready

/-- The sink takes a list of events. -/
theorem drain_eq (events : List Event) (s : State) :
    drain events s =
      { s with
        port := if events = [] then s.port else []
        delivered := s.delivered ++ events
        outReady := readyAfterAll events s.outReady
        tick := s.tick + events.length
        sink := Sink.reactAll (s.tick + 1) events s.sink } := by
  induction events generalizing s with
  | nil => simp [drain, readyAfterAll]
  | cons e events ih =>
    simp only [drain, sinkReact_eq, ih]
    cases events with
    | nil => simp [takeEvent, readyAfterAll]
    | cons f events => simp [takeEvent, readyAfterAll, Nat.add_comm, Nat.add_left_comm]

theorem drained_eq (s : State) :
    s.drained =
      { s with
        port := []
        delivered := s.delivered ++ s.port
        outReady := readyAfterAll s.port s.outReady
        tick := s.tick + s.port.length
        sink := Sink.reactAll (s.tick + 1) s.port s.sink } := by
  simp only [State.drained, drain_eq]
  congr 1
  split <;> simp_all

/-! ## Seek at the sink -/

/-- A page-select byte of a line below 16 selects that page (R71, R91). -/
theorem decodeCommand_pageSelByte {line : Byte} (h : line.toNat < 16) :
    decodeCommand (pageSelByte line) = .ok (.pageSel (BitVec.ofNat 4 line.toNat)) := by
  have hl : line = BitVec.ofNat 8 line.toNat := by simp
  rw [hl]
  revert h
  generalize line.toNat = n
  intro h
  interval_cases n <;> rfl

/-- The column-high byte of any column (R92). -/
theorem decodeCommand_colHiByte (column : Byte) :
    decodeCommand (colHiByte column) = .ok (.colHi (column.extractLsb' 4 4)) := by
  revert column; decide

/-- The column-low byte of any column (R93). -/
theorem decodeCommand_colLoByte (column : Byte) :
    decodeCommand (colLoByte column) = .ok (.colLo (column.extractLsb' 0 4)) := by
  revert column; decide

/-- A column is its two nibbles (R94). -/
theorem nibbles_append (column : Byte) : column.extractLsb' 4 4 ++ column.extractLsb' 0 4 = column := by
  revert column; decide

theorem high_of_append (high low : Nibble) : (high ++ low).extractLsb' 4 4 = high := by
  revert high low; decide

/-- A Seek with a line below 16 puts the pointer at its column and line, wherever it was (R71). -/
theorem Sink.reactAll_seekEvents (tick : Nat) {column line : Byte} (h : line.toNat < 16) (k : Sink) :
    Sink.reactAll tick (seekEvents column line) k =
      { k with page := BitVec.ofNat 4 line.toNat, column := column } := by
  simp only [seekEvents, Sink.reactAll_cons, Sink.reactAll_nil, Sink.react, decodeCommand_pageSelByte h,
    decodeCommand_colHiByte, decodeCommand_colLoByte, Sink.selectPage, Sink.setColumnHigh, Sink.setColumnLow]
  rw [high_of_append, nibbles_append]

/-! ## Display RAM -/

theorem ramKey_inj {page page' : Nibble} {column column' : Byte} (h : ramKey page column = ramKey page' column') :
    page = page' ∧ column = column' := by
  have hc := column.isLt
  have hc' := column'.isLt
  simp only [ramKey] at h
  exact ⟨BitVec.eq_of_toNat_eq (by omega), BitVec.eq_of_toNat_eq (by omega)⟩

theorem ramKey_lt (page : Nibble) (column : Byte) : ramKey page column < 4096 := by
  have hp := page.isLt
  have hc := column.isLt
  simp only [ramKey]
  omega

theorem Sink.ramAt_storeAt (k : Sink) (page page' : Nibble) (column column' b : Byte) :
    (k.storeAt page column b).ramAt page' column' =
      if page' = page ∧ column' = column then some b else k.ramAt page' column' := by
  unfold Sink.storeAt Sink.ramAt
  split
  · rename_i h
    rw [h.1, h.2]
    exact Memory.lookup_write_same _ _ _
  · rename_i h
    exact Memory.lookup_write_other _ _ fun e => h (ramKey_inj e)

/-- The RAM does not depend on the pointer. -/
theorem Sink.ramAt_congr {k k' : Sink} (h : k'.ram = k.ram) (page : Nibble) (column : Byte) :
    k'.ramAt page column = k.ramAt page column := by
  simp [Sink.ramAt, h]

@[simp] theorem Sink.react_data (tick : Nat) (d : Byte) (k : Sink) :
    Sink.react tick (.data d) k = k.acceptData tick d := rfl

@[simp] theorem Sink.acceptData_page (tick : Nat) (d : Byte) (k : Sink) : (k.acceptData tick d).page = k.page := by
  unfold Sink.acceptData
  cases k.landing tick <;> rfl

@[simp] theorem Sink.acceptData_column (tick : Nat) (d : Byte) (k : Sink) :
    (k.acceptData tick d).column = k.nextColumn tick := rfl

/-- A data byte in the visible area (R71). -/
theorem Sink.ramAt_acceptData_visible {tick : Nat} {d : Byte} {k : Sink} (hv : visible k.page k.column = true)
    (page : Nibble) (column : Byte) :
    (k.acceptData tick d).ramAt page column =
      if page = k.page ∧ column = k.column then some d else k.ramAt page column := by
  have hl : k.landing tick = some (k.page, k.column) := by simp [Sink.landing, hv]
  rw [← Sink.ramAt_storeAt]
  exact Sink.ramAt_congr (by simp [Sink.acceptData, hl]) _ _

/-- A data byte in a hidden column changes its own cell at most (log 13). -/
theorem Sink.ramAt_acceptData_hidden {tick : Nat} {d : Byte} {k : Sink} (hp : k.page.toNat < 8)
    (hc : k.column.toNat < 4) {page : Nibble} {column : Byte} (hne : ¬(page = k.page ∧ column = k.column)) :
    (k.acceptData tick d).ramAt page column = k.ramAt page column := by
  have hv : visible k.page k.column = false := by simp [visible]; omega
  have hh : hidden k.page k.column = true := by simp [hidden, hp, hc]
  cases hs : Config.freeStored tick with
  | false => exact Sink.ramAt_congr (by simp [Sink.acceptData, Sink.landing, hv, hh, hs]) _ _
  | true =>
    have hstore : (k.acceptData tick d).ramAt page column = (k.storeAt k.page k.column d).ramAt page column :=
      Sink.ramAt_congr (by simp [Sink.acceptData, Sink.landing, hv, hh, hs]) _ _
    rw [hstore, Sink.ramAt_storeAt, if_neg hne]

/-- A data byte up to the last visible column, as a cell past the hidden columns sees it (R71). -/
theorem Sink.ramAt_acceptData {tick : Nat} {d : Byte} {k : Sink} (hp : k.page.toNat < 8) (hc : k.column.toNat ≤ 131)
    (page : Nibble) {column : Byte} (hcol : 4 ≤ column.toNat) :
    (k.acceptData tick d).ramAt page column =
      if page = k.page ∧ column = k.column then some d else k.ramAt page column := by
  by_cases h4 : 4 ≤ k.column.toNat
  · exact Sink.ramAt_acceptData_visible (by simp [visible, hp, hc, h4]) page column
  · have hne : ¬(page = k.page ∧ column = k.column) := fun h => h4 (h.2 ▸ hcol)
    rw [if_neg hne, Sink.ramAt_acceptData_hidden hp (by omega) hne]

/-- A data byte anywhere: it lands in one cell or in none. -/
theorem Sink.ramAt_acceptData_cases (tick : Nat) (d : Byte) (k : Sink) (page : Nibble) (column : Byte) :
    (k.acceptData tick d).ramAt page column = some d ∨
      (k.acceptData tick d).ramAt page column = k.ramAt page column := by
  cases hl : k.landing tick with
  | none => exact .inr (Sink.ramAt_congr (by simp [Sink.acceptData, hl]) _ _)
  | some cell =>
    have hcell : (k.acceptData tick d).ramAt page column = (k.storeAt cell.1 cell.2 d).ramAt page column :=
      Sink.ramAt_congr (by simp [Sink.acceptData, hl]) _ _
    rw [hcell, Sink.ramAt_storeAt]
    split <;> simp

/-- Every event keeps display RAM in canonical form, inside its space. -/
theorem Sink.react_wf (tick : Nat) (e : Event) {k : Sink} (h : Memory.wfIn 4096 k.ram = true) :
    Memory.wfIn 4096 (Sink.react tick e k).ram = true := by
  cases e with
  | delay ms => exact h
  | cmd b =>
    unfold Sink.react
    simp only
    split <;> first | exact h | rfl
  | data d =>
    simp only [Sink.react_data, Sink.acceptData]
    split
    · exact Memory.wfIn_write _ h (ramKey_lt _ _)
    · exact h

/-- A run of data bytes up to the last visible column moves the pointer by its length, on any page. -/
theorem Sink.reactAll_data_pointer (tick : Nat) (bytes : List Byte) (k : Sink)
    (hc : k.column.toNat + bytes.length ≤ 131) :
    (Sink.reactAll tick (bytes.map Event.data) k).page = k.page ∧
    (Sink.reactAll tick (bytes.map Event.data) k).column.toNat = k.column.toNat + bytes.length := by
  induction bytes generalizing tick k with
  | nil => simp
  | cons b bytes ih =>
    simp only [List.map_cons, Sink.reactAll_cons, Sink.react_data, List.length_cons] at hc ⊢
    have hcol : (k.acceptData tick b).column.toNat = k.column.toNat + 1 := by
      simp only [Sink.acceptData_column, Sink.nextColumn, if_pos (show k.column.toNat < 131 by omega),
        BitVec.toNat_ofNat]
      omega
    obtain ⟨h1, h2⟩ := ih (tick + 1) (k.acceptData tick b) (by rw [hcol]; omega)
    exact ⟨by simpa using h1, by rw [h2, hcol]; omega⟩

/-- A run of data bytes that ends in the visible area lands at consecutive columns of one page, as a cell past the
hidden columns sees it. -/
theorem Sink.reactAll_data (tick : Nat) (bytes : List Byte) (k : Sink) (hp : k.page.toNat < 8)
    (hc : k.column.toNat + bytes.length ≤ 132) :
    (Sink.reactAll tick (bytes.map Event.data) k).page = k.page ∧
    (k.column.toNat + bytes.length ≤ 131 →
      (Sink.reactAll tick (bytes.map Event.data) k).column.toNat = k.column.toNat + bytes.length) ∧
    (∀ page column, 4 ≤ column.toNat → (Sink.reactAll tick (bytes.map Event.data) k).ramAt page column =
      if page = k.page ∧ k.column.toNat ≤ column.toNat ∧ column.toNat < k.column.toNat + bytes.length
      then bytes[column.toNat - k.column.toNat]? else k.ramAt page column) := by
  induction bytes generalizing tick k with
  | nil => simp
  | cons b bytes ih =>
    simp only [List.map_cons, Sink.reactAll_cons, Sink.react_data, List.length_cons] at hc ⊢
    have hnext : k.column.toNat < 131 → (k.nextColumn tick).toNat = k.column.toNat + 1 := by
      intro h
      simp only [Sink.nextColumn, h, if_true, BitVec.toNat_ofNat]
      omega
    have hcell := fun page column => Sink.ramAt_acceptData (tick := tick) (d := b) hp
      (by omega : k.column.toNat ≤ 131) page (column := column)
    cases hb : bytes with
    | nil =>
      simp only [List.map_nil, Sink.reactAll_nil, Sink.acceptData_page, Sink.acceptData_column, List.length_nil,
        true_and]
      refine ⟨fun h => hnext (by omega), fun page column hv => ?_⟩
      rw [hcell _ _ hv]
      by_cases h : page = k.page ∧ column = k.column
      · simp [h.1, h.2]
      · rw [if_neg h, if_neg]
        rintro ⟨h1, h2, h3⟩
        exact h ⟨h1, BitVec.eq_of_toNat_eq (by omega)⟩
    | cons b' bytes' =>
      have hlen : 1 ≤ bytes.length := by simp [hb]
      rw [← hb]
      have hcol : (k.acceptData tick b).column.toNat = k.column.toNat + 1 := by
        rw [Sink.acceptData_column]
        exact hnext (by omega)
      obtain ⟨h1, h2, h3⟩ := ih (tick + 1) (k.acceptData tick b) (by simpa using hp) (by rw [hcol]; omega)
      rw [hcol] at h2 h3
      refine ⟨by simpa using h1, fun h => by rw [h2 (by omega)]; omega, fun page column hv => ?_⟩
      rw [h3 _ _ hv, hcell _ _ hv, Sink.acceptData_page]
      by_cases hpage : page = k.page
      · by_cases heq : column = k.column
        · simp [hpage, heq]
        · have hne : column.toNat ≠ k.column.toNat := fun e => heq (BitVec.eq_of_toNat_eq e)
          by_cases hin : k.column.toNat + 1 ≤ column.toNat ∧ column.toNat < k.column.toNat + 1 + bytes.length
          · rw [if_pos ⟨hpage, hin⟩, if_pos ⟨hpage, by omega, by omega⟩,
              show column.toNat - k.column.toNat = column.toNat - (k.column.toNat + 1) + 1 by omega]
            rfl
          · rw [if_neg (fun h => hin h.2), if_neg (fun h => heq h.2), if_neg]
            rintro ⟨_, h4, h5⟩
            exact hin ⟨by omega, by omega⟩
      · simp [hpage]

end Sys2Proof.Machine
end

