-- ==== Sys2Proof/Laws/Ops.lean ====
section
/-!
SUPPORT. One lemma for each shared operation and loop of the meanings: everything it can do, as a state written out.
-/

namespace Sys2Proof.Machine

/-! ## CLEAR's loop -/

/-- The events of one page of CLEAR. -/
def clearPageEvents (page : Nat) : List Event :=
  seekEvents homeColumn (u8 page) ++ List.replicate Config.clearFill (.data 0)

/-- A run of cleared pages, then a Seek. -/
theorem seek_foldl_clearPage (column line : Byte) (pages : List Nat) (s : State) :
    seek column line (pages.foldl clearPage s) =
      { s with
        cursorColumn := column
        cursorLine := line
        port := s.port ++ pages.flatMap clearPageEvents ++ seekEvents column line } := by
  induction pages generalizing s with
  | nil => simp [seek, emit, setCursor]
  | cons p pages ih =>
    rw [List.foldl_cons, ih]
    simp [clearPage, clearPageEvents, emitZeros, seek, emit, setCursor]

theorem clearDisplay_eq (s : State) :
    clearDisplay s =
      { s with
        cursorColumn := homeColumn
        cursorLine := 0
        port := s.port ++ (List.range Config.clearPages).flatMap clearPageEvents ++ seekEvents homeColumn 0 } :=
  seek_foldl_clearPage _ _ _ s

/-! ## Glyphs -/

/-- The five bytes R145 selects. -/
def patternBytes (chr : Byte) (s : State) : List Byte :=
  if Config.space ≤ chr.toNat then romPattern (glyphIndex chr)
  else
    match s.slot chr with
    | some ptr => (patternAddrs ptr).map s.sourceByte
    | none => romPattern 0

/-- The addresses R145 reads. -/
def patternReads (chr : Byte) (s : State) : List Addr :=
  if Config.space ≤ chr.toNat then []
  else
    match s.slot chr with
    | some ptr => patternAddrs ptr
    | none => []

theorem drawPattern_eq (chr : Byte) (s : State) :
    drawPattern chr s =
      { s with
        port := s.port ++ (patternBytes chr s).map Event.data
        reads := s.reads ++ patternReads chr s } := by
  unfold drawPattern patternBytes patternReads
  split
  · simp [emitBytes, emit]
  · cases s.slot chr with
    | none => simp [emitBytes, emit]
    | some ptr => simp [copySource, emitBytes, emit]

theorem patternBytes_length (chr : Byte) (s : State) : (patternBytes chr s).length = 5 := by
  unfold patternBytes
  split
  · simp [romPattern]
  · cases s.slot chr <;> simp [romPattern, patternAddrs]

/-- The column after a glyph (R146). -/
def advancedColumn (s : State) : Byte := modulo (s.cursorColumn.toNat + Config.cellCols) s.widthPx

/-- The line after a glyph (R146). -/
def advancedLine (s : State) : Byte :=
  if advancedColumn s = 0 then nextTextLine s.cursorLine s.heightPx else s.cursorLine

theorem writeGlyph_eq (chr : Byte) (s : State) :
    writeGlyph chr s =
      { s with
        cursorColumn := advancedColumn s
        cursorLine := advancedLine s
        port := s.port ++ (patternBytes chr s ++ [0]).map Event.data
        reads := s.reads ++ patternReads chr s } := by
  simp [writeGlyph, advanceCursor, drawPattern_eq, emitZeros, emit, setCursor, advancedColumn, advancedLine]
  rfl

/-! ## DRAWBITMAP's loop -/

/-- The events of one row of a blit. -/
def blitRowEvents (ptr : Addr) (columns sc sl : Byte) (mx : Nat) (s : State) (r : Nat) : List Event :=
  seekEvents sc (u8 (sl.toNat + r)) ++ ((rowAddrs ptr columns.toNat r mx).map s.sourceByte).map Event.data

/-- A run of blit rows, then a Seek. -/
theorem seek_foldl_blitRow (column line : Byte) (ptr : Addr) (columns sc sl : Byte) (mx : Nat) (rows : List Nat)
    (s : State) :
    seek column line (rows.foldl (blitRow ptr columns sc sl mx) s) =
      { s with
        cursorColumn := column
        cursorLine := line
        port := s.port ++ rows.flatMap (blitRowEvents ptr columns sc sl mx s) ++ seekEvents column line
        reads := s.reads ++ rows.flatMap fun r => rowAddrs ptr columns.toNat r mx } := by
  induction rows generalizing s with
  | nil => simp [seek, emit, setCursor]
  | cons r rows ih =>
    have hbyte : (blitRow ptr columns sc sl mx s r).sourceByte = s.sourceByte := sourceByte_congr rfl rfl
    have hrow : blitRowEvents ptr columns sc sl mx (blitRow ptr columns sc sl mx s r)
        = blitRowEvents ptr columns sc sl mx s := by
      funext q; simp [blitRowEvents, hbyte]
    have hseek : (seek sc (u8 (sl.toNat + r)) s).sourceByte = s.sourceByte := sourceByte_congr rfl rfl
    rw [List.foldl_cons, ih, hrow]
    simp [blitRow, blitRowEvents, copySource, emitBytes, seek, emit, setCursor]
    intro a _
    exact congrFun (sourceByte_congr rfl rfl) a

/-! ## DRAWCOLUMN's loops -/

/-- The events of one page of a bar. -/
def barPageEvents (sc sl b : Byte) (p : Nat) : List Event := seekEvents sc (u8 (sl.toNat + p)) ++ [.data b]

theorem barPage_eq (sc sl b : Byte) (s : State) (p : Nat) :
    barPage sc sl b s p =
      { s with
        cursorColumn := sc
        cursorLine := u8 (sl.toNat + p)
        port := s.port ++ barPageEvents sc sl b p } := by
  simp [barPage, barPageEvents, emitBytes, seek, emit, setCursor]

/-- A run of bar pages, then a Seek. -/
theorem seek_foldl_barPage (column line sc sl b : Byte) (pages : List Nat) (s : State) :
    seek column line (pages.foldl (barPage sc sl b) s) =
      { s with
        cursorColumn := column
        cursorLine := line
        port := s.port ++ pages.flatMap (barPageEvents sc sl b) ++ seekEvents column line } := by
  induction pages generalizing s with
  | nil => simp [seek, emit, setCursor]
  | cons p pages ih =>
    rw [List.foldl_cons, ih, barPage_eq]
    simp

/-- A run of bar pages, then one more page. -/
theorem barPage_foldl_barPage (sc sl b b' : Byte) (pages : List Nat) (s : State) (p : Nat) :
    barPage sc sl b' (pages.foldl (barPage sc sl b) s) p =
      { s with
        cursorColumn := sc
        cursorLine := u8 (sl.toNat + p)
        port := s.port ++ pages.flatMap (barPageEvents sc sl b) ++ barPageEvents sc sl b' p } := by
  induction pages generalizing s with
  | nil => simp [barPage_eq]
  | cons q pages ih =>
    rw [List.foldl_cons, ih, barPage_eq]
    simp

/-! ## What a request does -/

/-- What every request leaves alone, and that it ends with a response due (R12, R86): the events it adds stand at the
end of the port. -/
structure RequestEffect (s t : State) : Prop where
  port : ∃ events, t.port = s.port ++ events
  reads : ∃ addrs, t.reads = s.reads ++ addrs
  response : t.response.isSome = true
  delivered : t.delivered = s.delivered
  outReady : t.outReady = s.outReady
  responses : t.responses = s.responses
  host : t.host = s.host
  mem : t.mem = s.mem
  sink : t.sink = s.sink
  tick : t.tick = s.tick

/-- An update of the block that keeps the shape is followed by a response. -/
theorem requestEffect_respond {s t : State} (count : Bit) (hp : ∃ events, t.port = s.port ++ events)
    (hr : ∃ addrs, t.reads = s.reads ++ addrs)
    (h : t.delivered = s.delivered ∧ t.outReady = s.outReady ∧ t.responses = s.responses ∧ t.host = s.host
      ∧ t.mem = s.mem ∧ t.sink = s.sink ∧ t.tick = s.tick) : RequestEffect s (respond count t) :=
  ⟨hp, hr, rfl, h.1, h.2.1, h.2.2.1, h.2.2.2.1, h.2.2.2.2.1, h.2.2.2.2.2.1, h.2.2.2.2.2.2⟩

end Sys2Proof.Machine
end

