-- ==== Sys2Proof/Laws/Exec.lean ====
section
/-!
SUPPORT. What exec answers: every request answers a next state of one shape, and the loops' closed forms put into the
meanings.
-/

namespace Sys2Proof.Machine

theorem execClearLine_eq (s : State) :
    exec .clearLine s = .next
      { s with
        cursorColumn := homeColumn
        port := s.port ++ (seekEvents homeColumn s.cursorLine ++ List.replicate Config.lineFill (.data 0)
          ++ seekEvents homeColumn s.cursorLine)
        response := some 0 } := by
  simp only [exec, execClearLine, respond, seek, emitZeros, emit, setCursor, notConsumed, List.append_assoc]

theorem execDrawBitmap_eq (columns lines : Byte) (ptr : Addr) (s : State) :
    exec (.drawBitmap columns lines ptr) s = .next
      { s with
        cursorColumn := u8 (s.cursorColumn.toNat + columns.toNat)
        port := s.port
          ++ (List.range (clippedHeight lines s)).flatMap
            (blitRowEvents ptr columns s.cursorColumn s.cursorLine (clippedWidth columns s) s)
          ++ seekEvents (u8 (s.cursorColumn.toNat + columns.toNat)) s.cursorLine
        reads := s.reads
          ++ (List.range (clippedHeight lines s)).flatMap
            fun r => rowAddrs ptr columns.toNat r (clippedWidth columns s)
        response := some 0 } := by
  simp [exec, execDrawBitmap, seek_foldl_blitRow, respond, notConsumed]

theorem execDrawColumn_eq (lines value : Byte) (s : State) :
    exec (.drawColumn lines value) s = .next
      { s with
        cursorColumn := u8 (s.cursorColumn.toNat + 1)
        port := s.port
          ++ (List.range (barMark lines value)).flatMap (barPageEvents s.cursorColumn s.cursorLine 0x00)
          ++ barPageEvents s.cursorColumn s.cursorLine (barByte lines value) (barMark lines value)
          ++ (List.range' (barMark lines value + 1) (lines.toNat - (barMark lines value + 1))).flatMap
            (barPageEvents s.cursorColumn s.cursorLine 0xFF)
          ++ seekEvents (u8 (s.cursorColumn.toNat + 1)) s.cursorLine
        response := some 0 } := by
  simp [exec, execDrawColumn, barPage_foldl_barPage, seek_foldl_barPage, respond, notConsumed]

/-- Every request answers a next state, and what it leaves alone (R12, R180). -/
theorem exec_request {i : Instr} (h : i.isRequest = true) (s : State) :
    ∃ t, exec i s = .next t ∧ RequestEffect s t := by
  cases i with
  | pageSel => simp [Instr.isRequest] at h
  | colHi => simp [Instr.isRequest] at h
  | colLo => simp [Instr.isRequest] at h
  | setCursor column line => exact ⟨_, rfl, requestEffect_respond _ ⟨_, rfl⟩ ⟨[], by simp⟩ (by simp)⟩
  | begin =>
    refine ⟨_, rfl, requestEffect_respond _ ?_ ⟨[], by simp [clearDisplay_eq]⟩ (by simp [clearDisplay_eq])⟩
    exact ⟨_, by simp only [clearDisplay_eq, setCursor_port, setGeometry_port, emit_port, List.append_assoc]; rfl⟩
  | clear =>
    refine ⟨_, rfl, requestEffect_respond _ ?_ ⟨[], by simp [clearDisplay_eq]⟩ (by simp [clearDisplay_eq])⟩
    exact ⟨_, by simp only [clearDisplay_eq, List.append_assoc]; rfl⟩
  | clearLine => exact ⟨_, execClearLine_eq s, ⟨_, rfl⟩, ⟨[], by simp⟩, rfl, rfl, rfl, rfl, rfl, rfl, rfl,
      rfl⟩
  | home => exact ⟨_, rfl, requestEffect_respond _ ⟨_, rfl⟩ ⟨[], by simp⟩ (by simp)⟩
  | writeReject chr => exact ⟨_, rfl, requestEffect_respond _ ⟨[], by simp⟩ ⟨[], by simp⟩ (by simp)⟩
  | writeCr => exact ⟨_, rfl, requestEffect_respond _ ⟨_, rfl⟩ ⟨[], by simp⟩ (by simp)⟩
  | writeNl => exact ⟨_, rfl, requestEffect_respond _ ⟨_, rfl⟩ ⟨[], by simp⟩ (by simp)⟩
  | writePrint chr =>
    refine ⟨_, rfl, requestEffect_respond _ ?_ ?_ (by simp [writeGlyph_eq])⟩ <;> rw [writeGlyph_eq] <;> exact ⟨_, rfl⟩
  | writeCtrl chr =>
    refine ⟨_, rfl, requestEffect_respond _ ?_ ?_ (by simp [writeGlyph_eq])⟩ <;> rw [writeGlyph_eq] <;> exact ⟨_, rfl⟩
  | createChar code ptr => exact ⟨_, rfl, requestEffect_respond _ ⟨[], by simp⟩ ⟨[], by simp⟩ (by simp)⟩
  | createCharIgnored code ptr => exact ⟨_, rfl, requestEffect_respond _ ⟨[], by simp⟩ ⟨[], by simp⟩ (by simp)⟩
  | drawBitmap columns lines ptr =>
    exact ⟨_, execDrawBitmap_eq columns lines ptr s, ⟨_, List.append_assoc _ _ _⟩, ⟨_, rfl⟩, rfl, rfl, rfl, rfl, rfl,
      rfl, rfl, rfl⟩
  | drawColumn lines value =>
    exact ⟨_, execDrawColumn_eq lines value s, ⟨_, by simp only [List.append_assoc]; rfl⟩, ⟨[], by simp⟩, rfl, rfl, rfl,
      rfl, rfl, rfl, rfl, rfl⟩

end Sys2Proof.Machine
end

