-- ==== Sys2Proof/Laws/PerInstr.lean ====
section
/-!
SUPPORT. One statement about every instruction as syntax, one lemma for each constructor: its encoding lies in the
opcode table's rows of its own mnemonic.
-/

/-- A well-formed instruction's encoding lies in exactly one row of the opcode table, a row of its mnemonic. -/
def Sys2Proof.Laws.TableRow.Statement (i : Sys2Proof.Instr) : Prop :=
  i.wf = true → (Sys2Proof.tableRows (Sys2Proof.encode i)).map Sys2Proof.TableRow.mnemonic = [i.mnemonic]

namespace Sys2Proof

/-! ## A word's rows depend on its two highest bytes only -/

/-- The two highest bytes of a request word. -/
theorem Request.high_ofFields (op a b : Byte) (ptr : Addr) :
    (Request.ofFields op a b ptr).toNat >>> 24 = op.toNat * 256 + a.toNat := by
  have hext : (Request.ofFields op a b ptr).extractLsb' 24 16 = op ++ a := by
    apply BitVec.eq_of_getLsbD_eq
    intro i hi
    simp only [BitVec.getLsbD_extractLsb', Request.getLsbD_ofFields, BitVec.getLsbD_append, hi, decide_true,
      Bool.true_and]
    rw [if_neg (by omega), if_neg (by omega)]
    split_ifs <;> first | omega | (congr 1; omega)
  have htoNat := congrArg BitVec.toNat hext
  have hlt : (Request.ofFields op a b ptr).toNat >>> 24 < 2 ^ 16 := by
    have := (Request.ofFields op a b ptr).isLt
    omega
  rw [BitVec.extractLsb'_toNat, Nat.mod_eq_of_lt hlt, BitVec.toNat_append,
    ← Nat.shiftLeft_add_eq_or_of_lt a.isLt] at htoNat
  omega

/-- Membership in a row whose mask stays above bit 24. -/
theorem TableRow.covers_high {row : TableRow} (hmask : row.mask >>> 24 <<< 24 = row.mask)
    (hvalue : row.value >>> 24 <<< 24 = row.value) (w : Nat) :
    row.covers w = ((w >>> 24 &&& row.mask >>> 24) == row.value >>> 24) := by
  have hand : w &&& row.mask = (w >>> 24 &&& row.mask >>> 24) <<< 24 := by
    conv_lhs => rw [← hmask]
    apply Nat.eq_of_testBit_eq
    intro i
    simp only [Nat.testBit_and, Nat.testBit_shiftLeft, Nat.testBit_shiftRight]
    by_cases hi : 24 ≤ i
    · simp [hi]
    · simp [hi]
  rw [TableRow.covers, hand, Bool.eq_iff_iff, beq_iff_eq, beq_iff_eq]
  constructor
  · intro h
    rw [← h]
    omega
  · intro h
    rw [h, hvalue]

/-- The rows of a word with opcode `op` and first operand `a`. -/
def rowsOf (op a : Byte) : List TableRow :=
  requestTable.filter fun row => ((op.toNat * 256 + a.toNat) &&& row.mask >>> 24) == row.value >>> 24

theorem requestTable_high : ∀ row ∈ requestTable,
    row.mask >>> 24 <<< 24 = row.mask ∧ row.value >>> 24 <<< 24 = row.value := by
  decide

theorem tableRows_ofFields (op a b : Byte) (ptr : Addr) :
    tableRows (.request (Request.ofFields op a b ptr)) = rowsOf op a := by
  apply List.filter_congr
  intro row hrow
  obtain ⟨hmask, hvalue⟩ := requestTable_high row hrow
  rw [TableRow.covers_high hmask hvalue, Request.high_ofFields]

/-- A request's rows, from the opcode and first operand of its encoding. -/
theorem Laws.TableRow.ofFields {i : Instr} {op a b : Byte} {ptr : Addr}
    (henc : encode i = .request (Request.ofFields op a b ptr))
    (hrows : i.wf = true → (rowsOf op a).map TableRow.mnemonic = [i.mnemonic]) : Laws.TableRow.Statement i := by
  intro hwf
  rw [henc, tableRows_ofFields]
  exact hrows hwf

end Sys2Proof

namespace Sys2Proof.Laws.TableRow

theorem setCursor (column line : Byte) : Statement (.setCursor column line) :=
  ofFields rfl (by simp only [Instr.wf, Instr.mnemonic]; revert column; decide)

theorem begin : Statement .begin := ofFields rfl fun _ => by decide

theorem clear : Statement .clear := ofFields rfl fun _ => by decide

theorem clearLine : Statement .clearLine := ofFields rfl fun _ => by decide

theorem home : Statement .home := ofFields rfl fun _ => by decide

theorem writeReject (chr : Byte) : Statement (.writeReject chr) :=
  ofFields rfl (by revert chr; decide)

theorem writeCr : Statement .writeCr := ofFields rfl fun _ => by decide

theorem writeNl : Statement .writeNl := ofFields rfl fun _ => by decide

theorem writePrint (chr : Byte) : Statement (.writePrint chr) :=
  ofFields rfl (by revert chr; decide)

theorem writeCtrl (chr : Byte) : Statement (.writeCtrl chr) :=
  ofFields rfl (by revert chr; decide)

theorem createChar (code : Byte) (ptr : Addr) : Statement (.createChar code ptr) :=
  ofFields rfl (by simp only [Instr.wf, Instr.mnemonic]; revert code; decide)

theorem createCharIgnored (code : Byte) (ptr : Addr) : Statement (.createCharIgnored code ptr) :=
  ofFields rfl (by simp only [Instr.wf, Instr.mnemonic]; revert code; decide)

theorem drawBitmap (columns lines : Byte) (ptr : Addr) : Statement (.drawBitmap columns lines ptr) :=
  ofFields rfl (by simp only [Instr.wf, Instr.mnemonic]; revert columns; decide)

theorem drawColumn (lines value : Byte) : Statement (.drawColumn lines value) :=
  ofFields rfl (by simp only [Instr.wf, Instr.mnemonic]; revert lines; decide)

theorem pageSel (page : Nibble) : Statement (.pageSel page) := by
  unfold Statement; revert page; decide

theorem colHi (high : Nibble) : Statement (.colHi high) := by
  unfold Statement; revert high; decide

theorem colLo (low : Nibble) : Statement (.colLo low) := by
  unfold Statement; revert low; decide

end Sys2Proof.Laws.TableRow
end

