-- ==== Sys2Proof/Laws/Step.lean ====
section
/-!
SUPPORT. Everything a step can do, as one inversion lemma; and that a step always answers a next state.
-/

namespace Sys2Proof.Machine

/-- The block is ready (R81): nothing waits at the port and no response is due. -/
theorem ready_iff (s : State) : s.ready = true ↔ s.port = [] ∧ s.response = none := by
  simp [State.ready, List.isEmpty_iff]

/-- A request word that is no instruction (R87). -/
theorem issueRequest_reserved {w : Request} {r : Reject} (h : decodeRequest w = .error r) (s : State) :
    issueRequest w s = .next (completeReserved s) := by
  simp [issueRequest, decode, h]

theorem issueRequest_decoded {w : Request} {i : Instr} (h : decodeRequest w = .ok i) (s : State) :
    issueRequest w s = exec i s := by
  simp [issueRequest, decode, h]

/-- The cases of a step. -/
inductive StepCase (s t : State) : Prop where
  /-- The block waits for the transport. -/
  | wait (e : Event) (rest : List Event) (hport : s.port = e :: rest) (hheld : s.held e = true)
      (ht : t = waitForTransport s)
  /-- The sink takes an event. -/
  | sink (e : Event) (rest : List Event) (hport : s.port = e :: rest) (hheld : s.held e = false)
      (ht : t = { takeEvent e rest s with sink := Sink.react (s.tick + 1) e s.sink })
  /-- A response is delivered. -/
  | deliver (count : Bit) (hport : s.port = []) (hrsp : s.response = some count) (ht : t = deliverResponse count s)
  /-- The machine is idle. -/
  | idle (hready : s.ready = true) (hhost : s.host = []) (ht : t = s)
  /-- The host writes a byte of source memory. -/
  | store (a : Addr) (b : Byte) (rest : List HostAction) (hready : s.ready = true) (hhost : s.host = .store a b :: rest)
      (ht : t = storeSource a b (takeAction rest s))
  /-- Hardware reset. -/
  | reset (rest : List HostAction) (hready : s.ready = true) (hhost : s.host = .reset :: rest)
      (ht : t = hardwareReset (takeAction rest s))
  /-- A reserved opcode. -/
  | reserved (w : Request) (r : Reject) (rest : List HostAction) (hready : s.ready = true)
      (hhost : s.host = .request w :: rest) (hdec : decodeRequest w = .error r)
      (ht : t = completeReserved (takeAction rest s))
  /-- A request runs. -/
  | request (w : Request) (i : Instr) (rest : List HostAction) (hready : s.ready = true)
      (hhost : s.host = .request w :: rest) (hdec : decodeRequest w = .ok i) (hreq : i.isRequest = true)
      (ht : exec i (takeAction rest s) = .next t) (heff : RequestEffect (takeAction rest s) t)

/-- A step answers a next state, and one of the cases holds of it. -/
theorem step_total (s : State) : ∃ t, step s = .next t ∧ StepCase s t := by
  unfold step
  cases hport : s.port with
  | cons e rest =>
    cases hheld : s.held e with
    | true => exact ⟨_, by simp [hheld], .wait e rest hport hheld rfl⟩
    | false => exact ⟨_, by simp only [hheld]; exact sinkReact_eq e _, .sink e rest hport hheld rfl⟩
  | nil =>
    cases hrsp : s.response with
    | some count => exact ⟨_, rfl, .deliver count hport hrsp rfl⟩
    | none =>
      have hready : s.ready = true := (ready_iff s).2 ⟨hport, hrsp⟩
      cases hhost : s.host with
      | nil => exact ⟨_, rfl, .idle hready hhost rfl⟩
      | cons act rest =>
        cases act with
        | store a b => exact ⟨_, rfl, .store a b rest hready hhost rfl⟩
        | reset => exact ⟨_, rfl, .reset rest hready hhost rfl⟩
        | request w =>
          cases hdec : decodeRequest w with
          | error r => exact ⟨_, issueRequest_reserved hdec _, .reserved w r rest hready hhost hdec rfl⟩
          | ok i =>
            have hreq := (decodeRequest_wf hdec).2
            obtain ⟨t, ht, heff⟩ := exec_request hreq (takeAction rest s)
            exact ⟨t, by simp only [hostAct, issueRequest_decoded hdec, ht],
              .request w i rest hready hhost hdec hreq ht heff⟩

/-- Everything a step can do. -/
theorem step_cases {s t : State} (h : step s = .next t) : StepCase s t := by
  obtain ⟨u, hu, hcase⟩ := step_total s
  rw [hu] at h
  injection h with h
  exact h ▸ hcase

end Sys2Proof.Machine
end

