-- ==== Sys2Proof/Tests/Slice0.lean ====
section
/-!
SUPPORT. Tests on fixed values, their expected results taken from spec/30_encoding.md and spec/95_test_vectors.md
(named in each comment); and for each statement with hypotheses a witness that meets them.
-/

namespace Sys2Proof.Tests

open Sys2Proof Sys2Proof.Machine

/-! ## Well-formedness: each check refuses an ill-formed term -/

theorem test_wf_reject : (Instr.writeReject 0x7F).wf = false := by decide
theorem test_wf_print_low : (Instr.writePrint 0x1F).wf = false := by decide
theorem test_wf_print_high : (Instr.writePrint 0x80).wf = false := by decide
theorem test_wf_ctrl_newline : (Instr.writeCtrl 0x0A).wf = false := by decide
theorem test_wf_ctrl_return : (Instr.writeCtrl 0x0D).wf = false := by decide
theorem test_wf_ctrl_high : (Instr.writeCtrl 0x20).wf = false := by decide
theorem test_wf_create : (Instr.createChar 0x20 0).wf = false := by decide
theorem test_wf_create_ignored : (Instr.createCharIgnored 0x1F 0).wf = false := by decide

/-! ## Decoding: for each constructor a word written out bit by bit, `op a b ptr` (R82, R84, R95, R96) -/

/-- `01 0A 03 BEEF` (T-E): SETCURSOR 10, 3, its `ptr` ignored. -/
theorem test_decode_setcursor :
    decodeTableWord 40 0b00000001_00001010_00000011_1011111011101111 = some (.setCursor 10 3) := by decide
/-- `02 FF FF FFFF` (T-E): all operand fields ignored. -/
theorem test_decode_begin :
    decodeTableWord 40 0b00000010_11111111_11111111_1111111111111111 = some .begin := by decide
theorem test_decode_clear :
    decodeTableWord 40 0b00000011_00000000_00000000_0000000000000000 = some .clear := by decide
theorem test_decode_clearline :
    decodeTableWord 40 0b00000100_00000000_00000000_0000000000000000 = some .clearLine := by decide
theorem test_decode_home :
    decodeTableWord 40 0b00000101_00000000_00000000_0000000000000000 = some .home := by decide
/-- `06 80 00 0000` (T-E): the first rejected byte. -/
theorem test_decode_reject :
    decodeTableWord 40 0b00000110_10000000_00000000_0000000000000000 = some (.writeReject 0x80) := by decide
theorem test_decode_cr :
    decodeTableWord 40 0b00000110_00001101_00000000_0000000000000000 = some .writeCr := by decide
theorem test_decode_nl :
    decodeTableWord 40 0b00000110_00001010_00000000_0000000000000000 = some .writeNl := by decide
/-- `06 7F 00 0000` (T-E): the last printable code. -/
theorem test_decode_print :
    decodeTableWord 40 0b00000110_01111111_00000000_0000000000000000 = some (.writePrint 0x7F) := by decide
/-- `06 1F 00 0000` (T-E): the last control code. -/
theorem test_decode_ctrl :
    decodeTableWord 40 0b00000110_00011111_00000000_0000000000000000 = some (.writeCtrl 0x1F) := by decide
/-- `07 01 00 0200` (T-E). -/
theorem test_decode_create :
    decodeTableWord 40 0b00000111_00000001_00000000_0000001000000000 = some (.createChar 1 0x0200) := by decide
/-- `07 20 00 0200` (T-E). -/
theorem test_decode_create_ignored :
    decodeTableWord 40 0b00000111_00100000_00000000_0000001000000000 = some (.createCharIgnored 0x20 0x0200) := by
  decide
/-- `08 08 03 1000` (T-E): `a` is columns, `b` is lines. -/
theorem test_decode_bitmap :
    decodeTableWord 40 0b00001000_00001000_00000011_0001000000000000 = some (.drawBitmap 8 3 0x1000) := by decide
/-- `09 02 05 0000` (T-E): `a` is lines, `b` is value. -/
theorem test_decode_column :
    decodeTableWord 40 0b00001001_00000010_00000101_0000000000000000 = some (.drawColumn 2 5) := by decide
/-- `1011 pppp` (R91). -/
theorem test_decode_pagesel : decodeTableWord 8 0b1011_0111 = some (.pageSel 7) := by decide
/-- `0001 hhhh` (R92). -/
theorem test_decode_colhi : decodeTableWord 8 0b0001_0110 = some (.colHi 6) := by decide
/-- `0000 llll` (R93). -/
theorem test_decode_collo : decodeTableWord 8 0b0000_1000 = some (.colLo 8) := by decide

/-- The reserved words of T-E, rejected by name. -/
theorem test_decode_reserved_zero : decodeRequest 0x0000000000 = .error (.reservedOpcode 0x00) := by rfl
theorem test_decode_reserved_ten : decodeRequest 0x0A00000000 = .error (.reservedOpcode 0x0A) := by rfl
theorem test_decode_reserved_last : decodeRequest 0xFFFFFFFFFF = .error (.reservedOpcode 0xFF) := by rfl
/-- A page select that overflowed (R91: `ln` = 16 gives 0xC0) is none of the three commands (R71). -/
theorem test_decode_other : decodeCommand (pageSelByte 16) = .error (.otherCommand 0xC0) := by rfl

/-- The word of SETCURSOR 10, 3 in R111. -/
theorem test_encode_setcursor : encode (.setCursor 10 3) = .request 0x010A030000 := by decide
/-- The word of DRAWBITMAP 0x0300, 3, 2 in R160. -/
theorem test_encode_bitmap : encode (.drawBitmap 3 2 0x0300) = .request 0x0803020300 := by decide
/-- R97: the textual order of DRAWBITMAP is ptr, columns, lines. -/
theorem test_text_bitmap : Instr.text (.drawBitmap 3 2 0x0300) = some "DRAWBITMAP 768, 3, 2" := by rfl
/-- R97: PRINT is one WRITE for each character. -/
theorem test_print : Instr.print [0x48, 0x0D] = [.writePrint 0x48, .writeCr] := by decide

/-- Every row of the opcode table is the first instruction run after reset. -/
def isNext : Host.Outcome State Fault Refusal → Bool
  | .next _ => true
  | .fault _ => false
  | .refused _ => false

theorem test_first_request : ∀ row ∈ requestTable, isNext (step (State.reset.withFetchWord 40 row.value)) = true := by
  decide
theorem test_first_command : ∀ row ∈ commandTable, isNext (step (State.reset.withFetchWord 8 row.value)) = true := by
  decide

/-! ## One step of each instruction: a state after BEGIN with its cursor at a place -/

/-- The state after BEGIN (95, conventions), the cursor at `(column, line)`, the sink's pointer in step. -/
def placedAt (column line : Byte) : State where
  cursorColumn := column
  cursorLine := line
  widthPx := 128
  heightPx := 64
  slots := Vector.replicate 32 none
  delivered := []
  port := []
  outReady := []
  response := none
  responses := []
  reads := []
  host := []
  mem := []
  sink := { page := BitVec.ofNat 4 line.toNat, column := column, ram := [] }
  tick := 0

/-- The state after a step of `exec`, where it answers one. -/
def after (i : Instr) (s : State) : State :=
  match exec i s with
  | .next t => t
  | .fault _ => s
  | .refused _ => s

/-- The events added, the cursor and the response. -/
def result (i : Instr) (s : State) : List Event × Byte × Byte × Option Bit :=
  ((after i s).port, (after i s).cursorColumn, (after i s).cursorLine, (after i s).response)

/-- T-A1, SETCURSOR 252, 0: the `u8` wrap. -/
theorem test_setcursor_wrap : result (.setCursor 252 0) (placedAt 4 0) = ([.cmd 0xB0, .cmd 0x10, .cmd 0x00], 0, 0, some 0) := by
  decide
/-- T-A1, SETCURSOR 0, 80: the page-select byte is a sum. -/
theorem test_setcursor_page_sum :
    result (.setCursor 0 80) (placedAt 4 0) = ([.cmd 0x00, .cmd 0x10, .cmd 0x04], 4, 80, some 0) := by decide
/-- T-I2: BEGIN's end state. -/
theorem test_begin :
    (let t := after .begin (placedAt 50 5); (t.cursorColumn, t.cursorLine, t.widthPx, t.heightPx)) = (4, 0, 128, 64) := by
  decide
/-- T-I1: event 134 is the last zero of page 0 and 135 selects page 1. -/
theorem test_clear :
    ((after .clear (placedAt 70 6)).port.drop 134).take 3 = [.data 0x00, .cmd 0xB1, .cmd 0x10] := by decide
/-- T-I3: CLEARLINE from (54, 5) writes 128 zeros. -/
theorem test_clearline :
    ((after .clearLine (placedAt 54 5)).port.drop 130) = [.data 0x00, .cmd 0xB5, .cmd 0x10, .cmd 0x04] := by decide
/-- T-I5: HOME from (70, 2). -/
theorem test_home : result .home (placedAt 70 2) = ([.cmd 0xB2, .cmd 0x10, .cmd 0x04], 4, 2, some 0) := by decide
/-- T-W7. -/
theorem test_reject : after (.writeReject 0x80) (placedAt 40 3) = { placedAt 40 3 with response := some 0 } := by decide
/-- T-W3. -/
theorem test_cr : result .writeCr (placedAt 40 3) = ([.cmd 0xB3, .cmd 0x10, .cmd 0x04], 4, 3, some 1) := by decide
/-- T-W4: NL keeps the biased column. -/
theorem test_nl : result .writeNl (placedAt 34 1) = ([.cmd 0xB2, .cmd 0x12, .cmd 0x02], 34, 2, some 1) := by decide
/-- T-W6: NL from line 255. -/
theorem test_nl_wrap : result .writeNl (placedAt 34 255) = ([.cmd 0xB0, .cmd 0x12, .cmd 0x02], 34, 0, some 1) := by decide
/-- T-W2: space is blank. -/
theorem test_print_space : result (.writePrint 0x20) (placedAt 4 0) = (List.replicate 6 (.data 0), 10, 0, some 1) := by decide
/-- T-W13: the line wraps from 7 to 0 and no command is sent. -/
theorem test_print_wrap :
    result (.writePrint 0x78) (placedAt 122 7) =
      ((List.range 5).map (fun k => .data (glyphRom 88 k)) ++ [.data 0], 0, 0, some 1) := by rfl
/-- T-W22: the slot's five bytes, in order. -/
theorem test_ctrl_slot :
    result (.writeCtrl 1)
        { placedAt 4 0 with
          slots := (Vector.replicate 32 none).set 1 (some 0x0200)
          mem := [(0x0200, 0x7E), (0x0201, 0x81), (0x0202, 0xA5), (0x0203, 0x81), (0x0204, 0x7E)] } =
      ([.data 0x7E, .data 0x81, .data 0xA5, .data 0x81, .data 0x7E, .data 0x00], 10, 0, some 1) := by decide
/-- T-W25: the pattern's addresses wrap at 2^16. -/
theorem test_ctrl_wrap :
    (after (.writeCtrl 3) { placedAt 4 0 with slots := (Vector.replicate 32 none).set 3 (some 0xFFFE) }).reads =
      [0xFFFE, 0xFFFF, 0x0000, 0x0001, 0x0002] := by decide
/-- T-W23: code 0x1F registers slot 31. -/
theorem test_create : (after (.createChar 0x1F 0x0300) (placedAt 4 0)).slot 0x1F = some 0x0300 := by decide
/-- T-W23: code 0x20 does nothing. -/
theorem test_create_ignored : (after (.createCharIgnored 0x20 0x0300) (placedAt 4 0)).slots = (placedAt 4 0).slots := by decide
/-- T-B6: both clips, and the unclipped stride. -/
theorem test_bitmap_clip :
    (after (.drawBitmap 8 3 0x1000) (placedAt 124 6)).reads =
      [0x1000, 0x1001, 0x1002, 0x1003, 0x1008, 0x1009, 0x100A, 0x100B] := by decide
/-- T-B2: `columns` = 0, rows Seeked without data. -/
theorem test_bitmap_empty :
    (after (.drawBitmap 0 2 0x0400) (placedAt 14 2)).port =
      [.cmd 0xB2, .cmd 0x10, .cmd 0x0E, .cmd 0xB3, .cmd 0x10, .cmd 0x0E, .cmd 0xB2, .cmd 0x10, .cmd 0x0E] := by decide
/-- T-D2. -/
theorem test_column :
    (after (.drawColumn 2 9) (placedAt 20 4)).port =
      [.cmd 0xB4, .cmd 0x11, .cmd 0x04, .data 0x80, .cmd 0xB5, .cmd 0x11, .cmd 0x04, .data 0xFF, .cmd 0xB4, .cmd 0x11,
        .cmd 0x05] := by decide
/-- T-D10: `lines` = 0 writes one full byte. -/
theorem test_column_no_lines :
    (after (.drawColumn 0 0) (placedAt 20 4)).port =
      [.cmd 0xB4, .cmd 0x11, .cmd 0x04, .data 0xFF, .cmd 0xB4, .cmd 0x11, .cmd 0x05] := by decide
/-- R71: the pointer `RAM[4][20]` after each command. -/
theorem test_pagesel : (after (.pageSel 5) (placedAt 20 4)).sink = { page := 5, column := 20, ram := [] } := by decide
theorem test_colhi : (after (.colHi 0xA) (placedAt 0x14 4)).sink = { page := 4, column := 0xA4, ram := [] } := by decide
theorem test_collo : (after (.colLo 0xA) (placedAt 0x14 4)).sink = { page := 4, column := 0x1A, ram := [] } := by decide

/-! ## The operations around them -/

/-- R55, R65: memory keeps its form and reads back what was written. -/
theorem test_memory :
    Memory.write (Memory.write [(1, 7)] 0 5) 1 9 = [(0, 5), (1, 9)] := by decide
/-- R8: `(-1) div 8 = 0`, the mark of a full bar (T-S7). -/
theorem test_mark_full : barMark 4 32 = 0 ∧ barShift 4 32 = 0 ∧ barByte 4 32 = 0xFF := by decide
/-- T-D15: `lines * 8` is not reduced to 8 bits. -/
theorem test_mark_tall : barMark 32 255 = 0 ∧ barShift 32 255 = 1 ∧ barByte 32 255 = 0xFE := by decide
/-- T-B12: the landing of a data byte, and the pointer after it (R71). -/
theorem test_data_lands :
    ((placedAt 14 2).sink.acceptData 1 0x55) = { page := 2, column := 15, ram := [(2 * 256 + 14, 0x55)] } := by decide
/-- T-E: 0xB3 goes out as 1, 0, 1, 1, 0, 0, 1, 1. -/
theorem test_serial : serialBits 0xB3 = [1, 0, 1, 1, 0, 0, 1, 1] := by decide

/-! ## Witnesses: for each statement with hypotheses, values that meet them, at the ends of their ranges -/

/-- A state with a request as the host's next action. -/
def asked (w : Request) : State := { placedAt 4 0 with host := [.request w] }

/-- A busy block, with something the host does next. -/
def busyBefore (act : HostAction) : State := { placedAt 121 7 with port := [.data 0x55], response := some 0, host := [act] }

/-- A state with a command and a data byte at the port, a response due, the transport not ready at first. -/
def busy (ready : List Bit) : State :=
  { placedAt 4 0 with port := [.cmd 0xB1, .data 0x55], outReady := ready, response := some 0 }

theorem witness_DecodeOfEncode :
    (Instr.writeReject 0x80).wf = true ∧ (Instr.writeReject 0xFF).wf = true ∧ (Instr.writePrint 0x20).wf = true ∧
    (Instr.writePrint 0x7F).wf = true ∧ (Instr.writeCtrl 0x00).wf = true ∧ (Instr.writeCtrl 0x1F).wf = true ∧
    (Instr.createChar 0x1F 0xFFFF).wf = true ∧ (Instr.createCharIgnored 0x20 0).wf = true := by decide

theorem witness_DecodeGivesWellFormed :
    decode (.request 0x0680000000) = .ok (.writeReject 0x80) ∧ decode (.command 0xB0) = .ok (.pageSel 0) :=
  ⟨rfl, rfl⟩

theorem witness_TableRowsDisjointAndComplete :
    (1 ≤ (Request.op 0x0100000000).toNat ∧ (Request.op 0x0100000000).toNat ≤ 9) ∧
    (1 ≤ (Request.op 0x0900000000).toNat ∧ (Request.op 0x0900000000).toNat ≤ 9) ∧
    (Request.op 0x00FFFFFFFF).toNat = 0 ∧ 10 ≤ (Request.op 0x0A00000000).toNat := by decide

theorem witness_WriteClassesByCode :
    (0x80 ≤ (0x80 : Byte).toNat ∧ 0x80 ≤ (0xFF : Byte).toNat) ∧ (0x0D : Byte).toNat = 0x0D ∧ (0x0A : Byte).toNat = 0x0A ∧
    (0x20 ≤ (0x20 : Byte).toNat ∧ (0x7F : Byte).toNat ≤ 0x7F) ∧
    ((0x1F : Byte).toNat ≤ 0x1F ∧ (0x1F : Byte).toNat ≠ 0x0A ∧ (0x1F : Byte).toNat ≠ 0x0D) := by decide

theorem witness_StepRunsDecodedRequest :
    (asked 0x0641771234).ready = true ∧ (asked 0x0641771234).host = [.request 0x0641771234] ∧
    decode (.request 0x0641771234) = .ok (.writePrint 0x41) := ⟨rfl, rfl, rfl⟩

theorem witness_StepRunsDecodedCommand :
    (∃ s : State, s.port = .delay 100 :: [] ∧ Event.isDelay (.delay 100) = true ∧ s.outReady.head? = some 0) ∧
    (busy [1]).port = .cmd 0xB1 :: [.data 0x55] ∧ (busy [1]).outReady.head? ≠ some 0 ∧ (busy []).outReady.head? ≠ some 0 ∧
    decode (.command 0xB1) = .ok (.pageSel 1) := 
  ⟨⟨{ busy [0] with port := [.delay 100] }, rfl, rfl, rfl⟩, rfl, by decide, by decide, rfl⟩

theorem witness_FetchWordRunsNext :
    decodeTableWord 40 0x0902050000 = some (.drawColumn 2 5) ∧ decodeTableWord 8 0xB7 = some (.pageSel 7) := by decide

theorem witness_ReservedOpcodeChangesNothing :
    (asked 0x0000000000).ready = true ∧ (asked 0x0000000000).host = [.request 0x0000000000] ∧
    (Request.op 0x0000000000).toNat = 0 ∧ 0x0A ≤ (Request.op 0x0A00000000).toNat := by decide

theorem witness_RequestCompletesWithCount : Instr.isRequest .writeCr = true ∧ Instr.isRequest .begin = true := by decide

theorem witness_BlockWaitsForTransport :
    (∃ (e : Event) (rest : List Event), (busy [0, 1]).port = e :: rest ∧ Event.isCmd e = true ∧
      (busy [0, 1]).outReady = 0 :: [1]) ∧
    (∃ (s : State) (e : Event) (rest : List Event), s.port = e :: rest ∧ Event.isData e = true ∧ s.outReady = 0 :: []) ∧
    ∃ (s : State) (rest : List Event), s.port = .delay 100 :: rest ∧ s.outReady = [0] :=
  ⟨⟨_, _, rfl, rfl, rfl⟩, ⟨{ busy [0] with port := [.data 1] }, _, _, rfl, rfl, rfl⟩,
    ⟨{ busy [0] with port := [.delay 100] }, _, rfl, rfl⟩⟩

theorem witness_OneRequestAtATime :
    ((asked 0x0500000000).ready = true ∧ ∃ t, step (asked 0x0500000000) = .next t) ∧
    ((busy [0]).ready = false ∧ ∃ t, step (busy [0]) = .next t) ∧
    ∃ s t : State, s.wf = true ∧ s.ready = false ∧ step s = .next t ∧ t.ready = true :=
  ⟨⟨rfl, _, rfl⟩, ⟨rfl, _, rfl⟩, ⟨{ placedAt 4 0 with response := some 1 }, _, by decide, rfl, rfl, by decide⟩⟩

theorem witness_DueResponseIsDelivered :
    (∃ s : State, s.port = [] ∧ s.response = some 1) ∧ ∃ s : State, s.ready = true ∧ s.host = [] :=
  ⟨⟨{ placedAt 4 0 with response := some 1 }, rfl, rfl⟩, placedAt 4 0, rfl, rfl⟩

theorem witness_OutGrowsAndDrainsInOrder :
    (busy []).noReset = true ∧ (∃ t, step (busy []) = .next t) ∧ (busy []).port ≠ [] ∧
    (busy []).outReady.head? ≠ some 0 ∧ (asked 0x0300000000).noReset = true ∧
    (∃ t, step (asked 0x0300000000) = .next t) ∧ (asked 0x0300000000).port = [] ∧
    (∃ t, (busyBefore .reset).noReset = true ∧ step (busyBefore .reset) = .next t) ∧
    ∃ s t : State, s.noReset = true ∧ step s = .next t ∧ t.responses ≠ s.responses :=
  ⟨rfl, ⟨_, rfl⟩, by decide, by decide, rfl, ⟨_, rfl⟩, rfl, ⟨_, rfl, rfl⟩,
    ⟨{ placedAt 4 0 with response := some 1 }, _, rfl, rfl, by decide⟩⟩

theorem witness_SeekProperties :
    (0 : Byte).toNat ≤ 15 ∧ (15 : Byte).toNat ≤ 15 ∧
    ∃ t u v : State, exec (.setCursor 252 255) (placedAt 4 0) = .next t ∧ exec (.setCursor 0 7) t = .next u ∧
      exec (.setCursor 0 7) (placedAt 4 0) = .next v := ⟨by decide, by decide, _, _, _, rfl, rfl, rfl⟩

theorem witness_RejectedWriteChangesNothing : 0x80 ≤ (0x80 : Byte).toNat ∧ 0x80 ≤ (0xFF : Byte).toNat := by decide

theorem witness_GlyphRendersAndAdvances :
    ((0x20 : Byte).toNat ≤ 0x7F ∧ (0x7F : Byte).toNat ≤ 0x7F ∧ 0x20 ≤ (0x20 : Byte).toNat ∧ 0x20 ≤ (0x7F : Byte).toNat) ∧
    (placedAt 122 7).widthPx ≠ 0 ∧
    ((0x1F : Byte).toNat < 0x20 ∧ (0x1F : Byte).toNat ≠ 0x0A ∧ (0x1F : Byte).toNat ≠ 0x0D) ∧
    (placedAt 4 0).slot 0x1F = none ∧
    ({ placedAt 4 0 with slots := (Vector.replicate 32 none).set 31 (some 0xFFFE) } : State).slot 0x1F = some 0xFFFE := by
  decide

theorem witness_GlyphBytesIgnoreTheGeometry :
    ∃ i : Instr, i = .writePrint 0x7F ∨ i = .writeCtrl 0x7F := ⟨_, .inl rfl⟩

theorem witness_CreateCharRegisters :
    (0x00 : Byte).toNat < 0x20 ∧ (0x1F : Byte).toNat < 0x20 ∧ 0x20 ≤ (0x20 : Byte).toNat ∧ 0x20 ≤ (0xFF : Byte).toNat := by
  decide

theorem witness_RequestFrame :
    ∀ i ∈ ([.setCursor 1 2, .begin, .clear, .clearLine, .home, .writeReject 0x80, .writeCr, .writeNl, .writePrint 0x20,
      .writeCtrl 0x1F, .createChar 0x1F 9, .createCharIgnored 0x20 9, .drawBitmap 3 2 9, .drawColumn 4 13] : List Instr),
      i.isRequest = true ∧ i.wf = true ∧ isNext (exec i (placedAt 4 0)) = true := by decide

theorem witness_OutputCommandFrame :
    ∀ i ∈ ([.pageSel 15, .colHi 15, .colLo 15] : List Instr), i.isRequest = false ∧ isNext (exec i (placedAt 4 0)) = true := by
  decide

theorem witness_SlotsChangeByCreateCharOnly :
    (∃ t, (busyBefore .reset).noReset = true ∧ step (busyBefore .reset) = .next t) ∧
    ∃ t, (asked 0x071F000300).noReset = true ∧ step (asked 0x071F000300) = .next t ∧
      t.slots ≠ (asked 0x071F000300).slots ∧ (t.slot 0x1F).isSome = true :=
  ⟨⟨_, rfl, rfl⟩, _, rfl, rfl, by decide, by decide⟩

theorem witness_OnlyTheHostWritesSourceMemory :
    ∃ s t : State, s.ready = true ∧ s.host = .store 0xFFFF 0x7E :: [] ∧ step s = .next t ∧
      ∀ b rest, s.ready = true → s.host ≠ .store 0x0000 b :: rest :=
  ⟨{ placedAt 4 0 with host := [.store 0xFFFF 0x7E] }, _, rfl, rfl, rfl, fun _ _ _ h => by cases h⟩

theorem witness_SlotsOfCrAndNlNeverShow :
    (0x0A : Byte).toNat = 0x0A ∧ (0x0D : Byte).toNat = 0x0D ∧
    (∀ c : Nat, c ≠ 0x0A → c ≠ 0x0D →
      ((Vector.replicate 32 none).set 10 (some 0x0300) : Vector (Option Addr) 32)[c]? = (placedAt 4 0).slots[c]?) ∧
    ∃ t, exec (Instr.write 0x0A) (placedAt 4 0) = .next t :=
  ⟨rfl, rfl, fun c h _ => by rw [Vector.getElem?_set_ne _ (Ne.symm h)]; rfl, _, rfl⟩

theorem witness_RegisteredPatternIsReadAtEachWrite :
    ∃ t v : State, exec (Instr.create 0x1F 0xFFFE) (placedAt 4 0) = .next t ∧
      exec (Instr.write 0x1F) { t with tick := 9, port := [] } = .next v ∧
      ({ t with tick := 9, port := [] } : State).slot 0x1F = t.slot 0x1F := ⟨_, _, rfl, rfl, rfl⟩

theorem witness_RequestsIgnoreTheSink : ∃ t, Instr.isRequest .writeNl = true ∧ exec .writeNl (placedAt 4 255) = .next t :=
  ⟨_, rfl, rfl⟩

theorem witness_RequestsBeforeBeginAreSpecified :
    ∃ t u v : State, readsGeometry .home = false ∧ exec .home (placedAt 4 7) = .next t ∧
      exec .home { placedAt 4 7 with widthPx := 0, heightPx := 0 } = .next u ∧
      readsGeometry (.setCursor 1 2) = false ∧ readsCursor (.setCursor 1 2) = false ∧
      exec (.setCursor 1 2) { placedAt 4 7 with widthPx := 0, heightPx := 0, cursorColumn := 9, cursorLine := 9 } = .next v :=
  ⟨_, _, _, rfl, rfl, rfl, rfl, rfl, rfl⟩

theorem witness_LineAdvancesFromTwoColumnsOnly :
    (∃ t, (placedAt 122 7).initialised = true ∧ exec (.writePrint 0x78) (placedAt 122 7) = .next t) ∧
    (∃ t, (placedAt 250 255).initialised = true ∧ exec (.writeCtrl 0) (placedAt 250 255) = .next t) ∧
    ∃ t, (placedAt 255 3).initialised = true ∧ exec (.writePrint 0x78) (placedAt 255 3) = .next t :=
  ⟨⟨_, rfl, rfl⟩, ⟨_, rfl, rfl⟩, ⟨_, rfl, rfl⟩⟩

theorem witness_BitmapCountsAndBounds : 0 < blitWidth 3 (placedAt 126 7) ∧ 0 < blitHeight 2 (placedAt 126 7) := by decide

theorem witness_BarMarkShiftAndByte :
    1 ≤ (1 : Byte).toNat ∧ barValue 1 0 < (1 : Byte).toNat * 8 ∧ barValue 255 255 < (255 : Byte).toNat * 8 := by decide

theorem witness_BarIsExactlyItsValueTall :
    1 ≤ (1 : Byte).toNat ∧ 1 ≤ (255 : Byte).toNat ∧ ((0 : Nat) : Int) < barMarkPage 255 0 ∧
    barMarkPage 255 255 < ((254 : Nat) : Int) ∧ 254 < (255 : Byte).toNat := by decide

theorem witness_SinkReactsToEvents :
    (∃ t, (placedAt 131 7).sink.page.toNat ≤ 7 ∧ (placedAt 131 7).sink.column.toNat ≤ 131 ∧
      sinkReact (.data 0x55) (placedAt 131 7) = .next t) ∧
    (∃ t, (placedAt 130 7).sink.column.toNat < 131 ∧ sinkReact (.data 0x55) (placedAt 130 7) = .next t) ∧
    (0 : Byte).toNat ≤ 15 ∧ (15 : Byte).toNat ≤ 15 :=
  ⟨⟨_, by decide, by decide, rfl⟩, ⟨_, by decide, rfl⟩, by decide, by decide⟩

theorem witness_PointerStaysInStepWithCursor :
    (∃ s t : State, s.initialised = true ∧ s.noReset = true ∧ s.hostKeepsStep = true ∧ s.drained.inStep = true ∧
      step s = .next t ∧ t.cursorLine.toNat ≤ 15) ∧
    ∀ act ∈ [.reset, .request 0x0620000000],
      ∃ s t : State, s.ready = false ∧ s.host = [act] ∧ s.initialised = true ∧ s.noReset = true ∧
        s.hostKeepsStep = true ∧ s.drained.inStep = true ∧ step s = .next t ∧ t.cursorLine.toNat ≤ 15 :=
  ⟨⟨{ placedAt 121 15 with host := [.request 0x0620000000] }, _, rfl, rfl, by decide, by decide, rfl, by decide⟩,
    fun act _ => ⟨{ busyBefore act with cursorColumn := 122 }, _, rfl, rfl, rfl, rfl, rfl, rfl, rfl,
      (by decide : (7 : Byte).toNat ≤ 15)⟩⟩

theorem witness_ClearedDisplayIsBlank : visible 0 4 = true ∧ visible 7 131 = true := by decide

theorem witness_BitmapLandsRowMajor :
    ∃ t, (placedAt 126 7).initialised = true ∧ exec (.drawBitmap 3 2 0xFFFF) (placedAt 126 7) = .next t ∧
      0 < blitHeight 2 (placedAt 126 7) ∧ 1 < blitWidth 3 (placedAt 126 7) ∧
      4 ≤ (placedAt 126 7).cursorColumn.toNat + 1 ∧ 4 ≤ (placedAt 0 7).cursorColumn.toNat + 4 :=
  ⟨_, rfl, rfl, by decide, by decide, by decide, by decide⟩

theorem witness_BarLightsItsLowestPixels :
    (∃ t, 4 ≤ (placedAt 4 0).cursorColumn.toNat ∧ (placedAt 4 0).cursorColumn.toNat ≤ 131 ∧ regionFits 8 (placedAt 4 0) = true ∧
      exec (.drawColumn 8 255) (placedAt 4 0) = .next t ∧ 63 < 8 * (8 : Byte).toNat) ∧
    ∃ t, 4 ≤ (placedAt 131 7).cursorColumn.toNat ∧ (placedAt 131 7).cursorColumn.toNat ≤ 131 ∧ regionFits 1 (placedAt 131 7) = true ∧
      exec (.drawColumn 1 0) (placedAt 131 7) = .next t ∧ 0 < 8 * (1 : Byte).toNat :=
  ⟨⟨_, by decide, by decide, by decide, rfl, by decide⟩, ⟨_, by decide, by decide, by decide, rfl, by decide⟩⟩

theorem witness_GlyphLandsAtTheCursor :
    ((placedAt 126 7).drained.inStep = true ∧ (placedAt 126 7).cursorLine.toNat ≤ 7 ∧ (placedAt 126 7).cursorColumn.toNat ≤ 126 ∧
      (placedAt 126 7).slot 0x1F = none) ∧
    (0x20 ≤ (0x7F : Byte).toNat ∧ (0x7F : Byte).toNat ≤ 0x7F) ∧
    ((0x1F : Byte).toNat < 0x20 ∧ (0x1F : Byte).toNat ≠ 0x0A ∧ (0x1F : Byte).toNat ≠ 0x0D) ∧
    (∀ k < 5, 4 ≤ (placedAt 126 7).cursorColumn.toNat + k) ∧
    ∃ s : State, s.drained.inStep = true ∧ s.cursorLine = 0 ∧ s.cursorColumn = 0 ∧ s.slot 0x1F = some 0xFFFE ∧
      4 ≤ s.cursorColumn.toNat + 4 :=
  ⟨by decide, by decide, by decide, by decide,
    { placedAt 0 0 with slots := (Vector.replicate 32 none).set 31 (some 0xFFFE) }, by decide, rfl, rfl, by decide, by decide⟩

theorem witness_StepKeepsWellFormedState : ∃ t, (busy [1]).wf = true ∧ step (busy [1]) = .next t :=
  ⟨_, by decide, rfl⟩

theorem witness_HardwareResetLeaves :
    ∃ s : State, s.ready = true ∧ s.host = .reset :: [.request 0x0200000000] ∧ s.slot 0x1F = some 0xFFFE ∧ s.out ≠ [] ∧
      s.responses ≠ [] ∧ s.mem ≠ [] :=
  ⟨{ placedAt 4 0 with
      host := [.reset, .request 0x0200000000], slots := (Vector.replicate 32 none).set 31 (some 0xFFFE),
      delivered := [.cmd 0xB0], responses := [0], mem := [(0, 1)] }, by decide⟩

theorem witness_StepKeepsGeometry :
    (∃ t, (busyBefore .reset).initialised = true ∧ (busyBefore .reset).noReset = true ∧
      step (busyBefore .reset) = .next t) ∧
    ∃ t, (asked 0x0200000000).initialised = true ∧ (asked 0x0200000000).noReset = true ∧
      step (asked 0x0200000000) = .next t := ⟨⟨_, rfl, rfl, rfl⟩, _, rfl, rfl, rfl⟩

theorem witness_StepKeepsCursorInRange :
    (∃ s t : State, s.initialised = true ∧ s.cursorInRange = true ∧ s.noReset = true ∧ s.hostDutiful = true ∧
      step s = .next t) ∧
    ∀ act ∈ [.reset, .request 0x01FFFF0000],
      ∃ s t : State, s.ready = false ∧ s.host = [act] ∧ s.initialised = true ∧ s.cursorInRange = true ∧
        s.noReset = true ∧ s.hostDutiful = true ∧ step s = .next t :=
  ⟨⟨{ placedAt 124 7 with host := [.request 0x0803010000] }, _, rfl, by decide, rfl, by decide, rfl⟩,
    fun act _ => ⟨busyBefore act, _, rfl, rfl, rfl, rfl, rfl, rfl, rfl⟩⟩

end Sys2Proof.Tests
end

section
/-!
PROOFS. The statements about the scope of spec/00_scope.md: what a request completes with and leaves alone (R11, R12,
R20, R27, R54, R86), what it does not depend on (R13, R70), and who writes the source memory (R50, R217). Each request
is first put in closed form once, as the state it was given with the fields it writes; the statements are read off that.
-/

namespace Sys2Proof.Machine

/-! ## The requests in closed form -/

/-- The state a request leaves, written out. The output commands are no requests. -/
def requestResult (i : Instr) (s : State) : State :=
  match i with
  | .setCursor column line =>
    { s with
      cursorColumn := biasedColumn column
      cursorLine := line
      port := s.port ++ seekEvents (biasedColumn column) line
      response := some notConsumed }
  | .begin =>
    { s with
      cursorColumn := homeColumn
      cursorLine := 0
      widthPx := Config.width
      heightPx := Config.height
      port := s.port ++ initSeq ++ (List.range Config.clearPages).flatMap clearPageEvents ++ seekEvents homeColumn 0
      response := some notConsumed }
  | .clear =>
    { s with
      cursorColumn := homeColumn
      cursorLine := 0
      port := s.port ++ (List.range Config.clearPages).flatMap clearPageEvents ++ seekEvents homeColumn 0
      response := some notConsumed }
  | .clearLine =>
    { s with
      cursorColumn := homeColumn
      port := s.port ++ (seekEvents homeColumn s.cursorLine ++ List.replicate Config.lineFill (.data 0)
        ++ seekEvents homeColumn s.cursorLine)
      response := some notConsumed }
  | .home =>
    { s with
      cursorColumn := homeColumn
      port := s.port ++ seekEvents homeColumn s.cursorLine
      response := some notConsumed }
  | .writeReject _ => { s with response := some notConsumed }
  | .writeCr =>
    { s with
      cursorColumn := homeColumn
      port := s.port ++ seekEvents homeColumn s.cursorLine
      response := some consumed }
  | .writeNl =>
    { s with
      cursorLine := u8 (s.cursorLine.toNat + 1)
      port := s.port ++ seekEvents s.cursorColumn (u8 (s.cursorLine.toNat + 1))
      response := some consumed }
  | .writePrint chr | .writeCtrl chr =>
    { s with
      cursorColumn := advancedColumn s
      cursorLine := advancedLine s
      port := s.port ++ (patternBytes chr s ++ [0]).map Event.data
      reads := s.reads ++ patternReads chr s
      response := some consumed }
  | .createChar code ptr =>
    { s with slots := (registerGlyph code ptr s).slots, response := some notConsumed }
  | .createCharIgnored _ _ => { s with response := some notConsumed }
  | .drawBitmap columns lines ptr =>
    { s with
      cursorColumn := u8 (s.cursorColumn.toNat + columns.toNat)
      port := s.port
        ++ (List.range (clippedHeight lines s)).flatMap
          (blitRowEvents ptr columns s.cursorColumn s.cursorLine (clippedWidth columns s) s)
        ++ seekEvents (u8 (s.cursorColumn.toNat + columns.toNat)) s.cursorLine
      reads := s.reads
        ++ (List.range (clippedHeight lines s)).flatMap
          fun r => rowAddrs ptr columns.toNat r (clippedWidth columns s)
      response := some notConsumed }
  | .drawColumn lines value =>
    { s with
      cursorColumn := u8 (s.cursorColumn.toNat + 1)
      port := s.port
        ++ (List.range (barMark lines value)).flatMap (barPageEvents s.cursorColumn s.cursorLine 0x00)
        ++ barPageEvents s.cursorColumn s.cursorLine (barByte lines value) (barMark lines value)
        ++ (List.range' (barMark lines value + 1) (lines.toNat - (barMark lines value + 1))).flatMap
          (barPageEvents s.cursorColumn s.cursorLine 0xFF)
        ++ seekEvents (u8 (s.cursorColumn.toNat + 1)) s.cursorLine
      response := some notConsumed }
  | .pageSel _ | .colHi _ | .colLo _ => s

/-- Registering a glyph changes the slots only (R148). -/
theorem registerGlyph_eq (code : Byte) (ptr : Addr) (s : State) :
    registerGlyph code ptr s = { s with slots := (registerGlyph code ptr s).slots } := by
  unfold registerGlyph
  split <;> rfl

/-- The closed form is what `exec` answers. -/
theorem exec_eq_requestResult {i : Instr} (h : i.isRequest = true) (s : State) :
    exec i s = .next (requestResult i s) := by
  cases i with
  | pageSel | colHi | colLo => cases h
  | setCursor | home | writeReject | writeCr | writeNl | createCharIgnored => rfl
  | begin => simp only [exec, execBegin, clearDisplay_eq]; rfl
  | clear => simp only [exec, execClear, clearDisplay_eq]; rfl
  | clearLine => exact execClearLine_eq s
  | writePrint chr => simp only [exec, execWritePrint, writeGlyph_eq]; rfl
  | writeCtrl chr => simp only [exec, execWriteCtrl, writeGlyph_eq]; rfl
  | createChar code ptr => simp only [exec, execCreateChar]; rw [registerGlyph_eq]; rfl
  | drawBitmap columns lines ptr => exact execDrawBitmap_eq columns lines ptr s
  | drawColumn lines value => exact execDrawColumn_eq lines value s

theorem eq_requestResult {i : Instr} {s t : State} (h : i.isRequest = true) (ht : exec i s = .next t) :
    t = requestResult i s := by
  rw [exec_eq_requestResult h] at ht
  injection ht with ht
  exact ht.symm

/-! ## The response (R86, R141, R142) -/

theorem requestResult_response {i : Instr} (h : i.isRequest = true) (s : State) :
    (requestResult i s).response =
      some (if i.mnemonic ∈ ["WRITE.CR", "WRITE.NL", "WRITE.PRINT", "WRITE.CTRL"] then 1 else 0) := by
  cases i with
  | pageSel | colHi | colLo => cases h
  | writeCr | writeNl | writePrint | writeCtrl => simp [requestResult, Instr.mnemonic, consumed]
  | _ => simp [requestResult, Instr.mnemonic, notConsumed]

/-- Settles O13: the response stands in each request's closed form. -/
theorem requestCompletesWithCount : Obligations.RequestCompletesWithCount :=
  fun i s h => ⟨requestResult i s, exec_eq_requestResult h s, requestResult_response h s⟩

/-! ## What a request leaves alone -/

theorem requestResult_geometry {i : Instr} (h : i.mnemonic ≠ "BEGIN") (s : State) :
    (requestResult i s).widthPx = s.widthPx ∧ (requestResult i s).heightPx = s.heightPx := by
  cases i with
  | begin => exact absurd rfl h
  | _ => exact ⟨rfl, rfl⟩

theorem requestResult_slots {i : Instr} (h : i.mnemonic ≠ "CREATECHAR") (s : State) :
    (requestResult i s).slots = s.slots := by
  cases i with
  | createChar => exact absurd rfl h
  | _ => rfl

/-- A printable character's pattern stands in the glyph table, not in source memory (R145). -/
theorem patternReads_of_space_le {chr : Byte} (h : Config.space ≤ chr.toNat) (s : State) : patternReads chr s = [] :=
  if_pos h

theorem requestResult_reads {i : Instr} (hwf : i.wf = true) (h : i.mnemonic ∉ ["WRITE.CTRL", "DRAWBITMAP"])
    (s : State) : (requestResult i s).reads = s.reads := by
  cases i with
  | writeCtrl | drawBitmap => simp [Instr.mnemonic] at h
  | writePrint chr =>
    obtain ⟨hspace, -⟩ : Config.space ≤ chr.toNat ∧ chr.toNat < Config.rejectMin := by simpa [Instr.wf] using hwf
    simp [requestResult, patternReads_of_space_le hspace]
  | _ => rfl

theorem requestResult_cursor_port {i : Instr}
    (h : i.mnemonic ∈ ["WRITE.REJECT", "CREATECHAR", "CREATECHAR.IGNORED"]) (s : State) :
    (requestResult i s).cursorColumn = s.cursorColumn ∧ (requestResult i s).cursorLine = s.cursorLine ∧
      (requestResult i s).port = s.port := by
  cases i with
  | writeReject | createChar | createCharIgnored => exact ⟨rfl, rfl, rfl⟩
  | _ => simp [Instr.mnemonic] at h

theorem requestResult_cursorLine {i : Instr}
    (h : i.mnemonic ∈ ["CLEARLINE", "HOME", "WRITE.CR", "DRAWBITMAP", "DRAWCOLUMN"]) (s : State) :
    (requestResult i s).cursorLine = s.cursorLine := by
  cases i with
  | clearLine | home | writeCr | drawBitmap | drawColumn => rfl
  | _ => simp [Instr.mnemonic] at h

/-- What `exec_request` says of the state that `exec` answers. -/
theorem requestEffect_of_exec {i : Instr} {s t : State} (h : i.isRequest = true) (ht : exec i s = .next t) :
    RequestEffect s t := by
  obtain ⟨u, hu, heff⟩ := exec_request h s
  rw [hu] at ht
  injection ht with ht
  exact ht ▸ heff

/-- Settles O34: `RequestEffect` gives the frame all requests share, the closed form what depends on the operation. -/
theorem requestFrame : Obligations.RequestFrame := by
  intro i s t hreq hwf ht
  have heff := requestEffect_of_exec hreq ht
  refine ⟨congrFun (sourceByte_congr heff.mem heff.tick), heff.mem, heff.delivered, heff.outReady, heff.responses,
    heff.host, heff.sink, heff.tick, heff.port, ?_⟩
  rw [eq_requestResult hreq ht]
  exact ⟨fun h => requestResult_geometry h s, fun h => requestResult_slots h s,
    fun h => requestResult_reads hwf h s, fun h => requestResult_cursor_port h s, fun h => requestResult_cursorLine h s⟩

/-! ## What a request does not depend on -/

/-- No field that a request writes is computed from the sink (R13, R70). -/
theorem requestResult_withSink (i : Instr) (s : State) (k : Sink) :
    requestResult i { s with sink := k } = { requestResult i s with sink := k } := by
  cases i with
  | createChar code ptr => simp only [requestResult, registerGlyph_slots]
  | _ => rfl

/-- Settles O40: the closed form does not look at the sink. -/
theorem requestsIgnoreTheSink : Obligations.RequestsIgnoreTheSink := by
  intro i s t k hreq ht
  rw [eq_requestResult hreq ht, exec_eq_requestResult hreq, requestResult_withSink]

/-! ## Who writes the source memory -/

/-- A ready block's step takes the host's write (R217). -/
theorem step_store {s : State} {a : Addr} {b : Byte} {rest : List HostAction} (hready : s.ready = true)
    (hhost : s.host = .store a b :: rest) : step s = .next (storeSource a b (takeAction rest s)) := by
  obtain ⟨hport, hresponse⟩ := (ready_iff s).1 hready
  simp [step, hport, hresponse, hhost, hostAct]

/-- A step leaves the byte stated for every address that it is not the host's write to (R11, R50). -/
theorem StepCase.lookup_mem {s t : State} (hcase : StepCase s t) {a : Addr}
    (ha : ∀ b rest, s.ready = true → s.host ≠ .store a b :: rest) :
    Memory.lookup t.mem a.toNat = Memory.lookup s.mem a.toNat := by
  cases hcase with
  | wait _ _ _ _ ht | sink _ _ _ _ ht | deliver _ _ _ ht | idle _ _ ht | reset _ _ _ ht | reserved _ _ _ _ _ _ ht =>
    subst ht
    rfl
  | request _ _ _ _ _ _ _ _ heff => rw [heff.mem, takeAction_mem]
  | store a' b rest hready hhost ht =>
    have hne : a ≠ a' := fun e => ha b rest hready (e ▸ hhost)
    rw [ht, storeSource_mem, takeAction_mem, Memory.lookup_write_other _ _ (BitVec.toNat_ne.mp hne)]

/-- Settles O37: `StepCase.lookup_mem` for the bytes that stay, `step_store` for the one written. -/
theorem onlyTheHostWritesSourceMemory : Obligations.OnlyTheHostWritesSourceMemory := by
  intro s t hstep
  refine ⟨fun a ha => (step_cases hstep).lookup_mem ha, fun a b rest hready hhost => ?_⟩
  rw [step_store hready hhost] at hstep
  injection hstep with ht
  rw [← ht]
  exact ⟨rfl, storeSource_sourceByte_same a b _⟩

end Sys2Proof.Machine
end

section
/-!
PROOFS. The statements about the state of spec/10_state.md: which steps change the block's registers and slots (R27,
R36, R201), where the sink's pointer and display RAM end up once it has taken what waits (R32, R35, R71), what the
registers left unwritten by hardware reset can affect (R34, R202), and what hardware reset leaves (R34, R200).
-/

namespace Sys2Proof.Machine

/-! ## The state once the sink has taken what waits -/

@[simp] theorem drained_cursorColumn (s : State) : s.drained.cursorColumn = s.cursorColumn := by rw [drained_eq]

@[simp] theorem drained_cursorLine (s : State) : s.drained.cursorLine = s.cursorLine := by rw [drained_eq]

theorem drained_sink (s : State) : s.drained.sink = Sink.reactAll (s.tick + 1) s.port s.sink := by rw [drained_eq]

/-- With nothing at the port the sink stays as it is. -/
theorem drained_sink_of_port_nil {s : State} (h : s.port = []) : s.drained.sink = s.sink := by
  rw [drained_sink, h, Sink.reactAll_nil]

theorem inStep_iff (s : State) :
    s.inStep = true ↔ s.sink.page.toNat = s.cursorLine.toNat ∧ s.sink.column = s.cursorColumn := by
  simp [State.inStep]

theorem drained_inStep_iff (s : State) :
    s.drained.inStep = true ↔
      s.drained.sink.page.toNat = s.cursorLine.toNat ∧ s.drained.sink.column = s.cursorColumn := by
  rw [inStep_iff, drained_cursorLine, drained_cursorColumn]

/-- A port that ends in the Seek to the cursor leaves the pointer there, whatever stands before it (R110). -/
theorem drained_inStep_of_port_seek {t : State} {events : List Event}
    (hport : t.port = events ++ seekEvents t.cursorColumn t.cursorLine) (hline : t.cursorLine.toNat ≤ 15) :
    t.drained.inStep = true := by
  rw [drained_inStep_iff, drained_sink, hport, Sink.reactAll_append, Sink.reactAll_seekEvents _ (by omega)]
  exact ⟨by rw [BitVec.toNat_ofNat]; omega, rfl⟩

theorem homeColumn_toNat : homeColumn.toNat = 4 := rfl

/-! ## The advance of a glyph WRITE (R146) -/

/-- The new column, for a width that is not zero (R8). -/
theorem advancedColumn_toNat {s : State} (h : 0 < s.widthPx.toNat) :
    (advancedColumn s).toNat = (s.cursorColumn.toNat + 6) % s.widthPx.toNat := by
  have hwidth : s.widthPx ≠ 0 := by rintro h0; simp [h0] at h
  have hmod := Nat.mod_lt (s.cursorColumn.toNat + 6) h
  rw [advancedColumn, modulo, if_neg hwidth, BitVec.toNat_ofNat]
  exact Nat.mod_eq_of_lt (hmod.trans s.widthPx.isLt)

theorem advancedColumn_lt {s : State} (h : 0 < s.widthPx.toNat) : (advancedColumn s).toNat < s.widthPx.toNat := by
  rw [advancedColumn_toNat h]
  exact Nat.mod_lt _ h

/-- Short of the right edge the column moves on by six. -/
theorem advancedColumn_of_lt {s : State} (h : s.cursorColumn.toNat + 6 < s.widthPx.toNat) :
    (advancedColumn s).toNat = s.cursorColumn.toNat + 6 := by
  rw [advancedColumn_toNat (by omega), Nat.mod_eq_of_lt h]

theorem advancedLine_of_lt {s : State} (h : s.cursorColumn.toNat + 6 < s.widthPx.toNat) :
    advancedLine s = s.cursorLine := by
  have hcolumn : advancedColumn s ≠ 0 := by
    intro h0
    have hzero := advancedColumn_of_lt h
    simp [h0] at hzero
  exact if_neg hcolumn

/-- The line stays where it is or becomes one of the text lines (R25). -/
theorem advancedLine_le (s : State) :
    (advancedLine s).toNat ≤ max s.cursorLine.toNat (s.heightPx.toNat / 9) := by
  unfold advancedLine
  split
  · have hmod := Nat.mod_lt (s.cursorLine.toNat + 1) (Nat.add_one_pos (s.heightPx.toNat / 9))
    have hle := Nat.mod_le ((s.cursorLine.toNat + 1) % (s.heightPx.toNat / 9 + 1)) (2 ^ 8)
    simp only [nextTextLine, Config.wrapDiv, BitVec.toNat_ofNat]
    omega
  · exact le_max_left _ _

/-! ## Which steps touch the block's registers and slots -/

/-- The geometry is BEGIN's. -/
theorem initialised_iff (s : State) : s.initialised = true ↔ s.widthPx = 128 ∧ s.heightPx = 64 := by
  simp [State.initialised]

theorem cursorInRange_iff (s : State) :
    s.cursorInRange = true ↔ s.cursorColumn.toNat < 128 ∧ s.cursorLine.toNat < 8 := by
  simp [State.cursorInRange]

/-- What a step leaves alone that runs no request: the registers, the slots, and the sink that the events still waiting
lead to. -/
structure KeepsBlock (s t : State) : Prop where
  cursorColumn : t.cursorColumn = s.cursorColumn
  cursorLine : t.cursorLine = s.cursorLine
  widthPx : t.widthPx = s.widthPx
  heightPx : t.heightPx = s.heightPx
  slots : t.slots = s.slots
  drainedSink : t.drained.sink = s.drained.sink

/-- A step that takes request `i` off the host's list, as the closed form of the request. -/
structure RunsRequest (s t : State) (w : Request) (i : Instr) (rest : List HostAction) : Prop where
  ready : s.ready = true
  host : s.host = .request w :: rest
  dec : decodeRequest w = .ok i
  result : t = requestResult i (takeAction rest s)

theorem RunsRequest.isRequest {s t : State} {w : Request} {i : Instr} {rest : List HostAction}
    (h : RunsRequest s t w i rest) : i.isRequest = true :=
  (decodeRequest_wf h.dec).2

theorem RunsRequest.port_nil {s t : State} {w : Request} {i : Instr} {rest : List HostAction}
    (h : RunsRequest s t w i rest) : s.port = [] :=
  ((ready_iff s).1 h.ready).1

/-- Unless it is hardware reset, a step leaves the block alone or runs a request. -/
theorem keepsBlock_or_runsRequest {s t : State} (hreset : s.noReset = true) (hstep : step s = .next t) :
    KeepsBlock s t ∨ ∃ w i rest, RunsRequest s t w i rest := by
  cases step_cases hstep with
  | wait e rest hport hheld ht =>
    subst ht
    exact .inl ⟨rfl, rfl, rfl, rfl, rfl, by simp [drained_sink]⟩
  | sink e rest hport hheld ht =>
    subst ht
    exact .inl ⟨rfl, rfl, rfl, rfl, rfl, by simp [drained_sink, hport]⟩
  | deliver count hport hrsp ht =>
    subst ht
    exact .inl ⟨rfl, rfl, rfl, rfl, rfl, by simp [drained_sink, hport]⟩
  | idle hready hhost ht =>
    subst ht
    exact .inl ⟨rfl, rfl, rfl, rfl, rfl, rfl⟩
  | store a b rest hready hhost ht =>
    have hport := ((ready_iff s).1 hready).1
    subst ht
    exact .inl ⟨rfl, rfl, rfl, rfl, rfl, by simp [drained_sink, hport]⟩
  | reset rest hready hhost ht => simp [State.noReset, hready, hhost] at hreset
  | reserved w r rest hready hhost hdec ht =>
    have hport := ((ready_iff s).1 hready).1
    subst ht
    exact .inl ⟨rfl, rfl, rfl, rfl, rfl, by simp [drained_sink, completeReserved, hport]⟩
  | request w i rest hready hhost hdec hreq ht heff =>
    exact .inr ⟨w, i, rest, hready, hhost, hdec, eq_requestResult hreq ht⟩

/-! ## The pointer keeps up with the cursor (R32, R206) -/

/-- What a request does to the cursor and the port: it ends in a Seek to the new cursor, or leaves both, or is a glyph
WRITE. -/
theorem requestResult_cursor_cases {i : Instr} (hreq : i.isRequest = true) (s : State) :
    (∃ events, (requestResult i s).port =
      events ++ seekEvents (requestResult i s).cursorColumn (requestResult i s).cursorLine) ∨
    ((requestResult i s).port = s.port ∧ (requestResult i s).cursorColumn = s.cursorColumn ∧
      (requestResult i s).cursorLine = s.cursorLine) ∨
    (∃ chr, (requestResult i s).port = s.port ++ (patternBytes chr s ++ [0]).map Event.data ∧
      (requestResult i s).cursorColumn = advancedColumn s ∧ (requestResult i s).cursorLine = advancedLine s ∧
      leavesStep i s = decide (s.widthPx.toNat ≤ s.cursorColumn.toNat + 6)) := by
  cases i with
  | pageSel | colHi | colLo => cases hreq
  | setCursor | begin | clear | home | writeCr | writeNl | drawBitmap | drawColumn => exact .inl ⟨_, rfl⟩
  | clearLine => exact .inl ⟨_, (List.append_assoc _ _ _).symm⟩
  | writeReject | createChar | createCharIgnored => exact .inr (.inl ⟨rfl, rfl, rfl⟩)
  | writePrint chr | writeCtrl chr => exact .inr (.inr ⟨chr, rfl, rfl, rfl, rfl⟩)

/-- The six bytes of a glyph short of the right edge move the pointer as the cursor moves (R32). -/
theorem reactAll_glyph_inStep {s : State} {chr : Byte} (tick : Nat) (hwidth : s.widthPx = 128)
    (hedge : s.cursorColumn.toNat + 6 < s.widthPx.toNat) (hin : s.inStep = true) :
    (Sink.reactAll tick ((patternBytes chr s ++ [0]).map Event.data) s.sink).page.toNat = (advancedLine s).toNat ∧
    (Sink.reactAll tick ((patternBytes chr s ++ [0]).map Event.data) s.sink).column = advancedColumn s := by
  obtain ⟨hpage, hcolumn⟩ := (inStep_iff s).1 hin
  have hlen : (patternBytes chr s ++ [0]).length = 6 := by simp [patternBytes_length]
  have hshort : s.cursorColumn.toNat + 6 ≤ 131 := by
    rw [hwidth] at hedge
    exact le_trans hedge.le (by decide)
  obtain ⟨hpage', hcolumn'⟩ :=
    Sink.reactAll_data_pointer tick (patternBytes chr s ++ [0]) s.sink (by rw [hcolumn, hlen]; exact hshort)
  refine ⟨by rw [hpage', hpage, advancedLine_of_lt hedge], BitVec.eq_of_toNat_eq ?_⟩
  rw [hcolumn', hcolumn, hlen, advancedColumn_of_lt hedge]

theorem hostKeepsStep_of_runsRequest {s t : State} {w : Request} {i : Instr} {rest : List HostAction}
    (h : RunsRequest s t w i rest) : s.hostKeepsStep = !leavesStep i s := by
  simp [State.hostKeepsStep, h.ready, h.host, decode, h.dec]

/-- A request of a ready block keeps the pointer at the cursor: it ends in a Seek to its cursor, or emits nothing, or is
a glyph short of the edge. -/
theorem requestResult_drained_inStep {i : Instr} (hreq : i.isRequest = true) {s : State} (hport : s.port = [])
    (hwidth : s.widthPx = 128) (hkeep : leavesStep i s = false) (hin : s.inStep = true)
    (hline : (requestResult i s).cursorLine.toNat ≤ 15) : (requestResult i s).drained.inStep = true := by
  have hsink : (requestResult i s).sink = s.sink :=
    (requestEffect_of_exec hreq (exec_eq_requestResult hreq s)).sink
  obtain ⟨events, hseek⟩ | ⟨hport', hcolumn, hline'⟩ | ⟨chr, hport', hcolumn, hline', hleaves⟩ :=
    requestResult_cursor_cases hreq s
  · exact drained_inStep_of_port_seek hseek hline
  · rw [drained_inStep_iff, drained_sink_of_port_nil (hport'.trans hport), hsink, hcolumn, hline']
    exact (inStep_iff s).1 hin
  · have hedge : s.cursorColumn.toNat + 6 < s.widthPx.toNat :=
      not_le.1 (of_decide_eq_false (hleaves.symm.trans hkeep))
    rw [drained_inStep_iff, drained_sink, hport', hport, List.nil_append, hsink, hcolumn, hline']
    exact reactAll_glyph_inStep _ hwidth hedge hin

/-- Settles O48: a step that runs no request leaves the sink that the waiting events lead to, and a request starts with
nothing waiting. -/
theorem pointerStaysInStepWithCursor : Obligations.PointerStaysInStepWithCursor := by
  intro s t hinit hreset hkeep hin hstep hline
  rw [drained_inStep_iff] at hin
  obtain hblock | ⟨w, i, rest, hrun⟩ := keepsBlock_or_runsRequest hreset hstep
  · rw [drained_inStep_iff, hblock.drainedSink, hblock.cursorLine, hblock.cursorColumn]
    exact hin
  · rw [drained_sink_of_port_nil hrun.port_nil] at hin
    rw [hostKeepsStep_of_runsRequest hrun, Bool.not_eq_true'] at hkeep
    rw [hrun.result] at hline ⊢
    exact requestResult_drained_inStep (s := takeAction rest s) hrun.isRequest hrun.port_nil
      ((initialised_iff s).1 hinit).1 hkeep ((inStep_iff _).2 hin) hline

/-! ## Slots (R27) -/

/-- A registered slot is the pointer, and every other slot stays (R148). -/
theorem registerGlyph_slot {code : Byte} (hcode : code.toNat < 0x20) (ptr : Addr) (s : State) (c : Byte) :
    (registerGlyph code ptr s).slot c = if c = code then some ptr else s.slot c := by
  have hslots : (registerGlyph code ptr s).slots = s.slots.setIfInBounds code.toNat (some ptr) := by
    rw [registerGlyph_slots, if_pos hcode]
  by_cases hc : c = code
  · simp [State.slot, hslots, hc, hcode]
  · have hne : code.toNat ≠ c.toNat := fun e => hc (BitVec.eq_of_toNat_eq e.symm)
    simp [State.slot, hslots, hc, hne]

/-- A request leaves the slots, or is CREATECHAR and sets one slot. -/
theorem requestResult_slot_cases {i : Instr} (hwf : i.wf = true) (s : State) :
    (requestResult i s).slots = s.slots ∨
    ∃ code ptr, i = .createChar code ptr ∧ code.toNat < 0x20 ∧
      ∀ c, (requestResult i s).slot c = if c = code then some ptr else s.slot c := by
  cases i with
  | createChar code ptr =>
    have hcode : code.toNat < 0x20 := by simpa [Instr.wf] using hwf
    exact .inr ⟨code, ptr, rfl, hcode, registerGlyph_slot hcode ptr s⟩
  | _ => exact .inl rfl

/-- Settles O36: only a request changes the slots, and only CREATECHAR among the requests. -/
theorem slotsChangeByCreateCharOnly : Obligations.SlotsChangeByCreateCharOnly := by
  intro s t hreset hstep
  have hkept : t.slots = s.slots → ∀ c, (s.slot c).isSome = true → (t.slot c).isSome = true := by
    intro h c hc
    rwa [slot_congr h]
  obtain hblock | ⟨w, i, rest, hrun⟩ := keepsBlock_or_runsRequest hreset hstep
  · exact ⟨fun h => absurd hblock.slots h, hkept hblock.slots⟩
  · obtain hslots | ⟨code, ptr, hi, hcode, hslot⟩ :=
      requestResult_slot_cases (decodeRequest_wf hrun.dec).1 (takeAction rest s)
    · rw [← hrun.result] at hslots
      exact ⟨fun h => absurd hslots h, hkept hslots⟩
    · rw [← hrun.result] at hslot
      have hhost : t.host = rest := by rw [hrun.result, hi]; rfl
      refine ⟨fun _ => ⟨w, rest, code, ptr, hrun.ready, hrun.host, hhost, hi ▸ hrun.dec, hcode, ?_, ?_⟩, ?_⟩
      · rw [hslot, if_pos rfl]
      · intro c hc
        rw [hslot, if_neg hc]
        rfl
      · intro c hc
        rw [hslot]
        split
        · rfl
        · exact hc

/-! ## Registers that BEGIN would have written (R34, R202) -/

theorem requestResult_withGeometry {i : Instr} (h : readsGeometry i = false) (s : State) (width height : Byte) :
    requestResult i { s with widthPx := width, heightPx := height } =
      { requestResult i s with
        widthPx := (requestResult i { s with widthPx := width, heightPx := height }).widthPx
        heightPx := (requestResult i { s with widthPx := width, heightPx := height }).heightPx } := by
  cases i with
  | writePrint | writeCtrl | drawBitmap => cases h
  | createChar code ptr => simp only [requestResult, registerGlyph_slots]
  | _ => rfl

theorem requestResult_withCursor {i : Instr} (h : readsCursor i = false) (s : State) (column line : Byte) :
    requestResult i { s with cursorColumn := column, cursorLine := line } =
      { requestResult i s with
        cursorColumn := (requestResult i { s with cursorColumn := column, cursorLine := line }).cursorColumn
        cursorLine := (requestResult i { s with cursorColumn := column, cursorLine := line }).cursorLine } := by
  cases i with
  | clearLine | home | writeCr | writeNl | writePrint | writeCtrl | drawBitmap | drawColumn => cases h
  | createChar code ptr => simp only [requestResult, registerGlyph_slots]
  | _ => rfl

/-- Settles O41: no field of the closed form but the changed registers themselves is computed from them. -/
theorem requestsBeforeBeginAreSpecified : Obligations.RequestsBeforeBeginAreSpecified := by
  intro i s t u width height column line hreq hgeometry ht
  refine ⟨fun hu => ?_, fun hcursor hu => ?_⟩
  · rw [eq_requestResult hreq ht, eq_requestResult hreq hu]
    exact requestResult_withGeometry hgeometry s width height
  · rw [eq_requestResult hreq ht, eq_requestResult hreq hu,
      requestResult_withCursor hcursor { s with widthPx := width, heightPx := height },
      requestResult_withGeometry hgeometry]

/-! ## The sink's reaction (R71) -/

theorem eq_of_sinkReact {e : Event} {s t : State} (h : sinkReact e s = .next t) :
    t = { s with sink := Sink.react s.tick e s.sink } := by
  rw [sinkReact_eq] at h
  injection h with h
  exact h.symm

/-- A data byte up to the last visible column changes no cell but its own. -/
theorem Sink.ramAt_acceptData_other {tick : Nat} {d : Byte} {k : Sink} (hp : k.page.toNat ≤ 7)
    (hc : k.column.toNat ≤ 131) {page : Nibble} {column : Byte} (hne : (page, column) ≠ (k.page, k.column)) :
    (k.acceptData tick d).ramAt page column = k.ramAt page column := by
  have hne' : ¬(page = k.page ∧ column = k.column) := fun h => hne (Prod.ext h.1 h.2)
  by_cases h4 : 4 ≤ k.column.toNat
  · have hv : visible k.page k.column = true := by simp [visible, h4, hc]; omega
    rw [Sink.ramAt_acceptData_visible hv, if_neg hne']
  · exact Sink.ramAt_acceptData_hidden (by omega) (by omega) hne'

/-- The column moves on while a further visible one exists. -/
theorem Sink.nextColumn_toNat {tick : Nat} {k : Sink} (h : k.column.toNat < 131) :
    (k.nextColumn tick).toNat = k.column.toNat + 1 := by
  rw [Sink.nextColumn, if_pos h, BitVec.toNat_ofNat]
  omega

/-- Settles O47: the sink's reaction to each event, and a Seek as the three reactions to its commands. -/
theorem sinkReactsToEvents : Obligations.SinkReactsToEvents := by
  refine ⟨fun e s => ⟨_, sinkReact_eq e s, rfl⟩, fun s t d hpage hcolumn ht => ?_, fun s ms => rfl,
    fun s column line hline => ?_⟩
  · have hsink : t.sink = s.sink.acceptData s.tick d := by rw [eq_of_sinkReact ht, Sink.react_data]
    rw [hsink]
    refine ⟨fun h4 => ?_, fun page column hne => Sink.ramAt_acceptData_other hpage hcolumn hne,
      Sink.acceptData_page _ _ _, fun h => Sink.nextColumn_toNat h⟩
    rw [Sink.ramAt_acceptData (by omega) hcolumn _ h4, if_pos ⟨rfl, rfl⟩]
  · rw [drain_eq]
    simp only [Sink.reactAll_seekEvents _ (show line.toNat < 16 by omega), BitVec.toNat_ofNat, and_true]
    omega

/-! ## CLEAR's stream blanks the visible area (R35, R122) -/

theorem Sink.ramAt_withPointer (k : Sink) (page : Nibble) (column : Byte) :
    Sink.ramAt { k with page := page, column := column } = k.ramAt := rfl

/-- A zero byte, wherever it lands, leaves a zero cell zero. -/
theorem Sink.reactAll_zeros_keeps_zero (tick n : Nat) {k : Sink} {page : Nibble} {column : Byte}
    (h : k.ramAt page column = some 0) :
    (Sink.reactAll tick (List.replicate n (.data 0)) k).ramAt page column = some 0 := by
  induction n generalizing tick k with
  | zero => exact h
  | succ n ih =>
    rw [List.replicate_succ, Sink.reactAll_cons, Sink.react_data]
    apply ih
    obtain hd | hd := Sink.ramAt_acceptData_cases tick 0 k page column
    · exact hd
    · rw [hd, h]

/-- The sink at the start of a page of CLEAR. -/
theorem Sink.reactAll_clearPageEvents (tick : Nat) {p : Nat} (hp : p < 8) (k : Sink) :
    Sink.reactAll tick (clearPageEvents p) k =
      Sink.reactAll (tick + 3) (List.replicate 132 (.data 0))
        { k with page := BitVec.ofNat 4 p, column := homeColumn } := by
  have hline : (u8 p).toNat = p := by rw [BitVec.toNat_ofNat]; omega
  rw [clearPageEvents, Sink.reactAll_append, Sink.reactAll_seekEvents _ (by omega), hline]
  rfl

theorem Sink.reactAll_clearPageEvents_keeps_zero (tick : Nat) {p : Nat} (hp : p < 8) {k : Sink} {page : Nibble}
    {column : Byte} (h : k.ramAt page column = some 0) :
    (Sink.reactAll tick (clearPageEvents p) k).ramAt page column = some 0 := by
  rw [Sink.reactAll_clearPageEvents tick hp]
  exact Sink.reactAll_zeros_keeps_zero _ _ h

/-- The first 128 of a page's 132 zero bytes fill its visible columns; the last four, which land freely, undo none. -/
theorem Sink.reactAll_clearPageEvents_blank (tick : Nat) {p : Nat} (hp : p < 8) (k : Sink) {column : Byte}
    (hlow : 4 ≤ column.toNat) (hhigh : column.toNat ≤ 131) :
    (Sink.reactAll tick (clearPageEvents p) k).ramAt (BitVec.ofNat 4 p) column = some 0 := by
  have hsplit : (List.replicate 132 (.data 0) : List Event) =
      (List.replicate 128 (0 : Byte)).map Event.data ++ List.replicate 4 (.data 0) := by
    rw [List.map_replicate, List.replicate_append_replicate]
  have hpage : (BitVec.ofNat 4 p).toNat < 8 := by rw [BitVec.toNat_ofNat]; omega
  rw [Sink.reactAll_clearPageEvents tick hp, hsplit, Sink.reactAll_append]
  apply Sink.reactAll_zeros_keeps_zero
  obtain ⟨-, -, hcell⟩ := Sink.reactAll_data (tick + 3) (List.replicate 128 (0 : Byte))
    { k with page := BitVec.ofNat 4 p, column := homeColumn } hpage (by simp [homeColumn_toNat])
  rw [hcell _ _ hlow]
  simp only [homeColumn_toNat, List.length_replicate, true_and]
  rw [if_pos (by omega), List.getElem?_replicate_of_lt (by omega)]

/-- CLEAR's pages keep a zero cell zero. -/
theorem Sink.reactAll_clearPages_keeps_zero (tick : Nat) {pages : List Nat} (hpages : ∀ p ∈ pages, p < 8) {k : Sink}
    {page : Nibble} {column : Byte} (h : k.ramAt page column = some 0) :
    (Sink.reactAll tick (pages.flatMap clearPageEvents) k).ramAt page column = some 0 := by
  induction pages generalizing tick k with
  | nil => exact h
  | cons p pages ih =>
    rw [List.forall_mem_cons] at hpages
    rw [List.flatMap_cons, Sink.reactAll_append]
    exact ih _ hpages.2 (Sink.reactAll_clearPageEvents_keeps_zero tick hpages.1 h)

/-- Every page that CLEAR visits ends blank. -/
theorem Sink.reactAll_clearPages_blank (tick : Nat) {pages : List Nat} (hpages : ∀ p ∈ pages, p < 8) (k : Sink)
    {p : Nat} (hp : p ∈ pages) {column : Byte} (hlow : 4 ≤ column.toNat) (hhigh : column.toNat ≤ 131) :
    (Sink.reactAll tick (pages.flatMap clearPageEvents) k).ramAt (BitVec.ofNat 4 p) column = some 0 := by
  induction pages generalizing tick k with
  | nil => cases hp
  | cons q pages ih =>
    rw [List.forall_mem_cons] at hpages
    rw [List.flatMap_cons, Sink.reactAll_append]
    obtain rfl | hp := List.mem_cons.1 hp
    · exact Sink.reactAll_clearPages_keeps_zero _ hpages.2
        (Sink.reactAll_clearPageEvents_blank tick hpages.1 k hlow hhigh)
    · exact ih _ hpages.2 _ hp

/-- A port that ends in CLEAR's pages and a Seek leaves the visible area blank, whatever stands before them. -/
theorem drained_blank_of_port_clear {t : State} {events : List Event} {seekColumn seekLine : Byte}
    (hport : t.port =
      events ++ (List.range Config.clearPages).flatMap clearPageEvents ++ seekEvents seekColumn seekLine)
    (hline : seekLine.toNat < 16) {page : Nibble} {column : Byte} (hv : visible page column = true) :
    t.drained.sink.ramAt page column = some 0 := by
  obtain ⟨⟨hpage, hlow⟩, hhigh⟩ : (page.toNat < 8 ∧ 4 ≤ column.toNat) ∧ column.toNat ≤ 131 := by
    simpa [visible] using hv
  rw [drained_sink, hport, Sink.reactAll_append, Sink.reactAll_seekEvents _ hline, Sink.reactAll_append]
  have hblank := Sink.reactAll_clearPages_blank (t.tick + 1 + events.length) (pages := List.range Config.clearPages)
    (fun p => List.mem_range.1) (Sink.reactAll (t.tick + 1) events t.sink) (List.mem_range.2 hpage) hlow hhigh
  rw [BitVec.ofNat_toNat, BitVec.setWidth_eq] at hblank
  rw [Sink.ramAt_withPointer, hblank]

/-- Settles O49: both streams end in CLEAR's pages and the Seek to the cursor. -/
theorem clearedDisplayIsBlank : Obligations.ClearedDisplayIsBlank := by
  intro s
  have hbegin : (requestResult .begin s).port =
      (s.port ++ initSeq) ++ (List.range Config.clearPages).flatMap clearPageEvents ++ seekEvents homeColumn 0 := rfl
  have hclear : (requestResult .clear s).port =
      s.port ++ (List.range Config.clearPages).flatMap clearPageEvents ++ seekEvents homeColumn 0 := rfl
  refine ⟨_, _, exec_eq_requestResult rfl s, exec_eq_requestResult rfl s, fun page column hv => ⟨?_, ?_⟩, ?_, ?_⟩
  · exact drained_blank_of_port_clear hbegin (by decide) hv
  · exact drained_blank_of_port_clear hclear (by decide) hv
  · exact drained_inStep_of_port_seek hbegin (Nat.zero_le 15)
  · exact drained_inStep_of_port_seek hclear (Nat.zero_le 15)

/-! ## The geometry and the cursor's range (R36, R201) -/

/-- BEGIN writes its own geometry and every other request leaves it. -/
theorem requestResult_initialised {s : State} (i : Instr) (h : s.initialised = true) :
    (requestResult i s).initialised = true := by
  cases i with
  | begin => rfl
  | _ => exact h

/-- Settles O56: a step leaves the geometry, or runs a request. -/
theorem stepKeepsGeometry : Obligations.StepKeepsGeometry := by
  intro s t hinit hreset hstep
  obtain hblock | ⟨w, i, rest, hrun⟩ := keepsBlock_or_runsRequest hreset hstep
  · rw [initialised_iff] at hinit ⊢
    rw [hblock.widthPx, hblock.heightPx]
    exact hinit
  · rw [hrun.result]
    exact requestResult_initialised i hinit

theorem hostDutiful_of_runsRequest {s t : State} {w : Request} {i : Instr} {rest : List HostAction}
    (h : RunsRequest s t w i rest) : s.hostDutiful = dutiful i s := by
  simp [State.hostDutiful, h.ready, h.host, decode, h.dec]

/-- The advance of a glyph stays in the ranges of BEGIN's geometry: its text lines are 0 to 7 (R25, R36). -/
theorem advanced_inRange {s : State} (hinit : s.initialised = true) (hrange : s.cursorInRange = true) :
    (advancedColumn s).toNat < 128 ∧ (advancedLine s).toNat < 8 := by
  obtain ⟨hwidth, hheight⟩ := (initialised_iff s).1 hinit
  obtain ⟨-, hline⟩ := (cursorInRange_iff s).1 hrange
  have hcolumn' := advancedColumn_lt (s := s) (by rw [hwidth]; decide)
  have hline' := advancedLine_le s
  have hlines : s.heightPx.toNat / 9 = 7 := by rw [hheight]; rfl
  exact ⟨by rwa [hwidth] at hcolumn', by omega⟩

/-- A dutiful request keeps the cursor in range. -/
theorem requestResult_cursorInRange {i : Instr} {s : State} (hinit : s.initialised = true)
    (hrange : s.cursorInRange = true) (hdutiful : dutiful i s = true) :
    (requestResult i s).cursorInRange = true := by
  obtain ⟨hcolumn, hline⟩ := (cursorInRange_iff s).1 hrange
  rw [cursorInRange_iff]
  cases i with
  | setCursor column line =>
    obtain ⟨hc, hl⟩ : column.toNat ≤ 123 ∧ line.toNat ≤ 7 := by simpa [dutiful] using hdutiful
    simp only [requestResult, biasedColumn, Config.bias, BitVec.toNat_ofNat]
    omega
  | begin | clear => exact ⟨homeColumn_toNat.trans_lt (by decide), Nat.zero_lt_succ 7⟩
  | clearLine | home | writeCr => exact ⟨homeColumn_toNat.trans_lt (by decide), hline⟩
  | writeReject | createChar | createCharIgnored | pageSel | colHi | colLo => exact ⟨hcolumn, hline⟩
  | writeNl =>
    have hl : s.cursorLine.toNat < 7 := by simpa [dutiful] using hdutiful
    simp only [requestResult, BitVec.toNat_ofNat]
    omega
  | writePrint | writeCtrl => exact advanced_inRange hinit hrange
  | drawBitmap columns lines ptr =>
    have hc : s.cursorColumn.toNat + columns.toNat ≤ 127 := by simpa [dutiful] using hdutiful
    simp only [requestResult, BitVec.toNat_ofNat]
    omega
  | drawColumn lines value =>
    have hc : s.cursorColumn.toNat + 1 ≤ 127 := by simpa [dutiful] using hdutiful
    simp only [requestResult, BitVec.toNat_ofNat]
    omega

/-- Settles O57: a step leaves the cursor, or runs a request that keeps the duties. -/
theorem stepKeepsCursorInRange : Obligations.StepKeepsCursorInRange := by
  intro s t hinit hrange hreset hdutiful hstep
  obtain hblock | ⟨w, i, rest, hrun⟩ := keepsBlock_or_runsRequest hreset hstep
  · rw [cursorInRange_iff] at hrange ⊢
    rw [hblock.cursorColumn, hblock.cursorLine]
    exact hrange
  · rw [hostDutiful_of_runsRequest hrun] at hdutiful
    rw [hrun.result]
    exact requestResult_cursorInRange (s := takeAction rest s) hinit hrange hdutiful

/-! ## Hardware reset (R34, R200) -/

/-- A slot file of invalid slots has no pointer, also where a code has no slot. -/
theorem slot_of_slots_none {s : State} (h : s.slots = Vector.replicate 32 none) (c : Byte) : s.slot c = none := by
  rw [State.slot, h, Vector.getElem?_replicate]
  split <;> rfl

/-- Settles O54: the fields of `State.reset` are the values R34 and R200 give. -/
theorem resetStateIsWellFormed : Obligations.ResetStateIsWellFormed :=
  ⟨rfl, rfl, rfl, slot_of_slots_none rfl⟩

/-- A ready block's step takes the host's hardware reset (R200). -/
theorem step_reset {s : State} {rest : List HostAction} (hready : s.ready = true) (hhost : s.host = .reset :: rest) :
    step s = .next (hardwareReset (takeAction rest s)) := by
  obtain ⟨hport, hresponse⟩ := (ready_iff s).1 hready
  simp [step, hport, hresponse, hhost, hostAct]

/-- Settles O55: the fields that `hardwareReset` writes, and those it leaves. -/
theorem hardwareResetLeaves : Obligations.HardwareResetLeaves := fun _ _ hready hhost =>
  ⟨_, step_reset hready hhost, slot_of_slots_none rfl, rfl, rfl, rfl, rfl, rfl, rfl, rfl⟩

end Sys2Proof.Machine
end

section
/-!
PROOFS. The statements about the memories and ports of spec/20_memory.md: the form of both memories and of the port that
every step keeps (R50, R59, R70, R81), how the waiting events reach the sink and what the sink does with the output
commands (R65, R71, R88, R90), where a registered pattern is read (R68, R149), and where blits, bars and glyphs land in
display RAM (R53, R56, R71, R164, R174).
-/

namespace Sys2Proof.Machine

/-! ## The form that every step keeps (R50, R59, R70, R81) -/

theorem wf_iff (s : State) :
    s.wf = true ↔
      Memory.wf s.mem = true ∧ Memory.wfIn 4096 s.sink.ram = true ∧ (s.port = [] ∨ s.response.isSome = true) := by
  simp [State.wf, and_assoc]

/-- Settles O53: of the cases of a step, the host's store and the sink's reaction write a memory, and only a request
puts events at the port. -/
theorem stepKeepsWellFormedState : Obligations.StepKeepsWellFormedState := by
  intro s t hwf hstep
  rw [wf_iff] at hwf ⊢
  obtain ⟨hmem, hram, hwaiting⟩ := hwf
  cases step_cases hstep with
  | wait e rest hport hheld ht =>
    subst ht
    exact ⟨hmem, hram, hwaiting⟩
  | sink e rest hport hheld ht =>
    subst ht
    have hresponse : s.response.isSome = true := hwaiting.resolve_left (by simp [hport])
    exact ⟨hmem, Sink.react_wf _ e hram, .inr hresponse⟩
  | deliver count hport hrsp ht =>
    subst ht
    exact ⟨hmem, hram, .inl hport⟩
  | idle hready hhost ht =>
    subst ht
    exact ⟨hmem, hram, hwaiting⟩
  | store a b rest hready hhost ht =>
    subst ht
    exact ⟨Memory.wf_write a b hmem, hram, hwaiting⟩
  | reset rest hready hhost ht =>
    subst ht
    exact ⟨hmem, rfl, .inl rfl⟩
  | reserved w r rest hready hhost hdec ht =>
    subst ht
    exact ⟨hmem, hram, .inr rfl⟩
  | request w i rest hready hhost hdec hreq ht heff =>
    rw [heff.mem, heff.sink]
    exact ⟨hmem, hram, .inr heff.response⟩

/-! ## The sink takes the waiting events (R65, R88) -/

/-- The transport holds an event only by keeping `out_ready` at 0 (R88). -/
theorem held_eq_false_of_head?_ne {s : State} (h : s.outReady.head? ≠ some 0) (e : Event) : s.held e = false := by
  have hne : (s.outReady.head? == some 0) = false := by simpa using h
  rw [State.held, hne, Bool.and_false]

/-- A delay is not carried on the port, so the transport does not hold it (R89). -/
theorem held_eq_false_of_isDelay {e : Event} (h : e.isDelay = true) (s : State) : s.held e = false := by
  cases e with
  | delay => rfl
  | cmd | data => cases h

/-- The event at the head of the port is held: the block waits. -/
theorem step_of_held {s : State} {e : Event} {rest : List Event} (hport : s.port = e :: rest)
    (hheld : s.held e = true) : step s = .next (waitForTransport s) := by
  simp [step, hport, hheld]

/-- The event at the head of the port is not held: the sink takes it. -/
theorem step_of_not_held {s : State} {e : Event} {rest : List Event} (hport : s.port = e :: rest)
    (hheld : s.held e = false) : step s = sinkReact e (takeEvent e rest s) := by
  simp [step, hport, hheld]

/-- Settles O9: `step_of_not_held`, and `sinkReact` at a command byte that decodes. -/
theorem stepRunsDecodedCommand : Obligations.StepRunsDecodedCommand := by
  refine ⟨fun s e rest hport hready => ?_, fun s b rest i hport hready hdec => ?_⟩
  · apply step_of_not_held hport
    obtain hdelay | hhead := hready
    · exact held_eq_false_of_isDelay hdelay s
    · exact held_eq_false_of_head?_ne hhead e
  · rw [step_of_not_held hport (held_eq_false_of_head?_ne hready _)]
    simp only [sinkReact, hdec]

/-- What a step does to OUT, unless it is hardware reset: the block waits, or the sink takes the event at the head of
the port, or nothing waits and nothing is delivered to the sink. -/
theorem out_cases {s t : State} (hreset : s.noReset = true) (hstep : step s = .next t) :
    (∃ e rest, s.port = e :: rest ∧ s.held e = true ∧ t = waitForTransport s) ∨
    (∃ e rest, s.port = e :: rest ∧ t.port = rest ∧ t.delivered = s.delivered ++ [e] ∧ t.responses = s.responses) ∨
    (s.port = [] ∧ t.delivered = s.delivered) := by
  cases step_cases hstep with
  | wait e rest hport hheld ht => exact .inl ⟨e, rest, hport, hheld, ht⟩
  | sink e rest hport hheld ht =>
    subst ht
    exact .inr (.inl ⟨e, rest, hport, rfl, rfl, rfl⟩)
  | deliver count hport hrsp ht =>
    subst ht
    exact .inr (.inr ⟨hport, rfl⟩)
  | reset rest hready hhost ht => simp [State.noReset, hready, hhost] at hreset
  | idle hready _ ht | store _ _ _ hready _ ht | reserved _ _ _ hready _ _ ht =>
    subst ht
    exact .inr (.inr ⟨((ready_iff _).1 hready).1, rfl⟩)
  | request w i rest hready hhost hdec hreq ht heff => exact .inr (.inr ⟨((ready_iff _).1 hready).1, heff.delivered⟩)

/-- Settles O17: the three cases of `out_cases`, one after the other. -/
theorem outGrowsAndDrainsInOrder : Obligations.OutGrowsAndDrainsInOrder := by
  intro s t hreset hstep
  obtain ⟨e, rest, hport, hheld, rfl⟩ | ⟨e, rest, hport, hport', hdelivered, hresponses⟩ | ⟨hport, hdelivered⟩ :=
    out_cases hreset hstep
  · refine ⟨⟨[], by simp [State.out]⟩, fun _ => ⟨rfl, .inl rfl⟩, fun _ hready => ?_, fun _ => rfl,
      fun h => absurd rfl h⟩
    rw [held_eq_false_of_head?_ne hready] at hheld
    cases hheld
  · have hout : t.out = s.out := by simp [State.out, hport, hport', hdelivered]
    exact ⟨⟨[], by simp [hout]⟩, fun _ => ⟨hout, .inr ⟨e, hport'.symm ▸ hport, hdelivered⟩⟩,
      fun _ _ => by rw [hport, hport', List.tail_cons], fun h => by simp [hport] at h, fun h => absurd hresponses h⟩
  · exact ⟨⟨t.port, by simp [State.out, hport, hdelivered]⟩, fun h => absurd hport h, fun h => absurd hport h,
      fun _ => hdelivered, fun _ => hport⟩

/-! ## The port drains (R65, R88, R215) -/

/-- How many steps the sink may need for the waiting events: one for each event, and one for each step at which the
transport is not ready. -/
def State.stepsToDrain (s : State) : Nat := s.port.length + s.outReady.countP (· == 0)

/-- A step at a port with waiting events brings it nearer to empty, and leaves what the sink will be but for the
transport's schedule. -/
theorem step_drains {s : State} (hport : s.port ≠ []) :
    ∃ t, step s = .next t ∧ t.stepsToDrain < s.stepsToDrain ∧
      t.drained = { s.drained with outReady := t.drained.outReady } := by
  obtain ⟨e, rest, hport⟩ := List.exists_cons_of_ne_nil hport
  cases hheld : s.held e with
  | true =>
    obtain ⟨later, hready⟩ : ∃ later, s.outReady = 0 :: later := by
      have hhead : s.outReady.head? = some 0 := by
        by_contra hne
        rw [held_eq_false_of_head?_ne hne] at hheld
        cases hheld
      exact List.head?_eq_some_iff.1 hhead
    refine ⟨_, step_of_held hport hheld, ?_, ?_⟩
    · simp [State.stepsToDrain, hready]
    · simp [drained_eq]
  | false =>
    refine ⟨_, (step_of_not_held hport hheld).trans (sinkReact_eq e _), ?_, ?_⟩
    · have hle : (readyAfter e s.outReady).countP (· == 0) ≤ s.outReady.countP (· == 0) := by
        unfold readyAfter
        split
        · exact (List.tail_sublist _).countP_le
        · exact le_rfl
      simp only [State.stepsToDrain, hport, takeEvent_port, takeEvent_outReady, List.length_cons]
      omega
    · simp [drained_eq, hport]
      omega

theorem core_run_succ {s t : State} (k : Nat) (h : step s = .next t) : core.run (k + 1) s = core.run k t := by
  have hcore : core.step s = .next t := h
  simp only [Host.Core.run, hcore]

theorem drained_of_port_nil {s : State} (h : s.port = []) : s.drained = s := by rw [State.drained, h, drain]

/-- Every waiting event reaches the sink: a step brings the port nearer to empty until it is. -/
theorem run_drains (s : State) :
    ∃ k t, k ≤ s.stepsToDrain ∧ core.run k s = .next t ∧ t = { s.drained with outReady := t.outReady } := by
  by_cases hport : s.port = []
  · exact ⟨0, s, Nat.zero_le _, rfl, by rw [drained_of_port_nil hport]⟩
  · obtain ⟨u, hu, hless, hdrained⟩ := step_drains hport
    obtain ⟨k, t, hk, hrun, ht⟩ := run_drains u
    rw [hdrained] at ht
    exact ⟨k + 1, t, by omega, (core_run_succ k hu).trans hrun, ht⟩
termination_by s.stepsToDrain

/-- Settles O18: `run_drains`, and what the drained state's port and delivered events are. -/
theorem portDrainsHoweverSlowTheTransport : Obligations.PortDrainsHoweverSlowTheTransport := by
  intro s
  obtain ⟨k, t, hk, hrun, ht⟩ := run_drains s
  refine ⟨k, t, hk, hrun, ht, ?_, ?_⟩ <;> rw [ht, drained_eq]

/-! ## The output commands at the controller (R71) -/

/-- A byte's value, by its two nibbles. -/
theorem append_nibbles_eq_u8 (high low : Nibble) : high ++ low = u8 (high.toNat * 16 + low.toNat) := by
  apply BitVec.eq_of_toNat_eq
  rw [BitVec.toNat_append, ← Nat.shiftLeft_add_eq_or_of_lt low.isLt, BitVec.toNat_ofNat]
  omega

/-- Settles O33: the nibbles of the column, as numbers. -/
theorem outputCommandsMovePointer : Obligations.OutputCommandsMovePointer := by
  intro s n
  refine ⟨rfl, ?_, ?_⟩
  · simp only [exec, execColHi, Sink.setColumnHigh, append_nibbles_eq_u8, BitVec.extractLsb'_toNat, Nat.shiftRight_zero]
  · have hhigh : (s.sink.column.extractLsb' 4 4).toNat = s.sink.column.toNat / 16 := by
      rw [BitVec.extractLsb'_toNat]
      omega
    simp only [exec, execColLo, Sink.setColumnLow, append_nibbles_eq_u8, hhigh]

/-- Settles O35: each of the three output commands writes one field of the sink. -/
theorem outputCommandFrame : Obligations.OutputCommandFrame := by
  intro i s t hreq ht
  cases i with
  | pageSel | colHi | colLo =>
    injection ht with ht
    subst ht
    simp [Instr.mnemonic, Sink.selectPage, Sink.setColumnHigh, Sink.setColumnLow, Sink.ramAt, State.sourceByte]
  | _ => cases hreq

/-! ## The framed transfer (R57, R90) -/

/-- The bit that is put on the data line at pulse `i`, as a truth value. -/
theorem extractLsb'_one_eq_ofBool (b : Byte) {i : Nat} (hi : i < 8) :
    b.extractLsb' (7 - i) 1 = BitVec.ofBool (b.getMsbD i) := by
  apply BitVec.eq_of_getLsbD_eq
  intro j hj
  obtain rfl : j = 0 := by omega
  simp [BitVec.getMsbD, hi]

theorem serialBits_eq (b : Byte) : serialBits b = (List.range 8).map fun i => BitVec.ofBool (b.getMsbD i) :=
  List.map_congr_left fun _ hi => extractLsb'_one_eq_ofBool b (List.mem_range.1 hi)

/-- Settles O58: `serialBits` goes from bit 7 down to bit 0. -/
theorem transferIsFramedMsbFirst : Obligations.TransferIsFramedMsbFirst := by
  intro b
  simp only [Event.frame, Event.outPort, serialBits_eq]
  exact ⟨rfl, rfl⟩

/-! ## Registered patterns (R68, R145, R149) -/

/-- The classes of a control code (R95, R96). -/
theorem create_eq_createChar {code : Byte} (h : code.toNat < 0x20) (ptr : Addr) :
    Instr.create code ptr = .createChar code ptr :=
  if_pos h

theorem write_eq_writeCtrl {code : Byte} (h : code.toNat < 0x20) (hnl : code.toNat ≠ 0x0A) (hcr : code.toNat ≠ 0x0D) :
    Instr.write code = .writeCtrl code := by
  have hnl' : code ≠ Config.newline := by rintro rfl; exact hnl rfl
  have hcr' : code ≠ Config.carriageReturn := by rintro rfl; exact hcr rfl
  rw [Instr.write, if_neg (not_le.2 (h.trans (by decide))), if_neg hcr', if_neg hnl', if_neg (not_le.2 h)]

/-- A printable character's bytes stand in the glyph table (R145). -/
theorem patternBytes_of_space_le {chr : Byte} (h : Config.space ≤ chr.toNat) (s : State) :
    patternBytes chr s = romPattern (glyphIndex chr) :=
  if_pos h

/-- A registered pattern's bytes are those that stand in source memory now (R145). -/
theorem patternBytes_of_slot_some {chr : Byte} {ptr : Addr} {s : State} (h : chr.toNat < Config.space)
    (hslot : s.slot chr = some ptr) :
    patternBytes chr s = (List.range 5).map fun k => s.sourceByte (addressAt ptr k) := by
  rw [patternBytes, if_neg (not_le.2 h), hslot]
  exact List.map_map

/-- An empty slot gives entry 0 of the glyph table, which is blank (R51, R145). -/
theorem patternBytes_of_slot_none {chr : Byte} {s : State} (h : chr.toNat < Config.space) (hslot : s.slot chr = none) :
    patternBytes chr s = (List.range 5).map fun _ => 0 := by
  rw [patternBytes, if_neg (not_le.2 h), hslot]
  rfl

/-- Settles O39: CREATECHAR leaves the slot at `ptr`, so WRITE reads the pattern there, in the state it runs in. -/
theorem registeredPatternIsReadAtEachWrite : Obligations.RegisteredPatternIsReadAtEachWrite := by
  intro code ptr s t u v hcode hnl hcr ht hslot hv
  rw [create_eq_createChar hcode] at ht
  rw [write_eq_writeCtrl hcode hnl hcr] at hv
  have hregistered : t.slot code = some ptr := by
    rw [eq_requestResult rfl ht]
    exact (registerGlyph_slot hcode ptr s code).trans (if_pos rfl)
  have hpattern := patternBytes_of_slot_some hcode (hslot.trans hregistered)
  rw [eq_requestResult rfl hv, requestResult, hpattern]
  simp [addressAt]

/-! ## Glyphs at the cursor (R53, R145, R146) -/

/-- The sink once it has taken what waited at the port and then some more events. -/
theorem drained_sink_of_port_append {s t : State} {events : List Event} (hport : t.port = s.port ++ events)
    (hsink : t.sink = s.sink) (htick : t.tick = s.tick) :
    t.drained.sink = Sink.reactAll (s.tick + 1 + s.port.length) events s.drained.sink := by
  rw [drained_sink, hport, hsink, htick, Sink.reactAll_append, drained_sink]

/-- A run of data bytes in the visible area, read back at a distance from where the pointer was. -/
theorem Sink.ramAt_reactAll_data (tick : Nat) {bytes : List Byte} {k : Sink} (hpage : k.page.toNat < 8)
    (hend : k.column.toNat + bytes.length ≤ 132) {x : Nat} (hx : x < bytes.length) (hvisible : 4 ≤ k.column.toNat + x) :
    (Sink.reactAll tick (bytes.map Event.data) k).ramAt k.page (u8 (k.column.toNat + x)) = bytes[x]? := by
  have hcolumn : (u8 (k.column.toNat + x)).toNat = k.column.toNat + x := by
    rw [BitVec.toNat_ofNat]
    omega
  obtain ⟨-, -, hcell⟩ := Sink.reactAll_data tick bytes k hpage hend
  rw [hcell _ _ (by omega), hcolumn, if_pos ⟨rfl, by omega, by omega⟩, Nat.add_sub_cancel_left]

/-- The six bytes of a glyph whose first stands at the cursor. -/
theorem drained_glyph_cell {chr : Byte} {s t : State}
    (hport : t.port = s.port ++ (patternBytes chr s ++ [0]).map Event.data) (hsink : t.sink = s.sink)
    (htick : t.tick = s.tick) (hin : s.drained.inStep = true) (hline : s.cursorLine.toNat ≤ 7)
    (hcolumn : s.cursorColumn.toNat ≤ 126) {x : Nat} (hx : x < 6) (hvisible : 4 ≤ s.cursorColumn.toNat + x) :
    t.drained.sink.ramAt (BitVec.ofNat 4 s.cursorLine.toNat) (u8 (s.cursorColumn.toNat + x)) =
      (patternBytes chr s ++ [0])[x]? := by
  obtain ⟨hsinkPage, hsinkColumn⟩ := (drained_inStep_iff s).1 hin
  have hlength : (patternBytes chr s ++ [0]).length = 6 := by simp [patternBytes_length]
  have hpage : BitVec.ofNat 4 s.cursorLine.toNat = s.drained.sink.page := by
    rw [← hsinkPage, BitVec.ofNat_toNat, BitVec.setWidth_eq]
  rw [drained_sink_of_port_append hport hsink htick, hpage, ← hsinkColumn]
  exact Sink.ramAt_reactAll_data _ (by omega) (by rw [hsinkColumn]; omega) (by omega) (by rwa [hsinkColumn])

/-- A glyph WRITE whose pattern is known completes, and its bytes land in the six cells from the cursor on. -/
theorem glyph_lands {i : Instr} {chr : Byte} {s : State} {pattern : Nat → Byte}
    (hi : i = .writePrint chr ∨ i = .writeCtrl chr) (hpattern : patternBytes chr s = (List.range 5).map pattern)
    (hin : s.drained.inStep = true) (hline : s.cursorLine.toNat ≤ 7) (hcolumn : s.cursorColumn.toNat ≤ 126) :
    ∃ t, exec i s = .next t ∧
      (∀ x < 5, 4 ≤ s.cursorColumn.toNat + x →
        t.drained.sink.ramAt (BitVec.ofNat 4 s.cursorLine.toNat) (u8 (s.cursorColumn.toNat + x)) = some (pattern x)) ∧
      t.drained.sink.ramAt (BitVec.ofNat 4 s.cursorLine.toNat) (u8 (s.cursorColumn.toNat + 5)) = some 0 := by
  obtain ⟨hreq, hport, hsink, htick⟩ : i.isRequest = true ∧
      (requestResult i s).port = s.port ++ (patternBytes chr s ++ [0]).map Event.data ∧
      (requestResult i s).sink = s.sink ∧ (requestResult i s).tick = s.tick := by
    obtain rfl | rfl := hi <;> exact ⟨rfl, rfl, rfl, rfl⟩
  refine ⟨_, exec_eq_requestResult hreq s, fun x hx hvisible => ?_, ?_⟩
  · rw [drained_glyph_cell hport hsink htick hin hline hcolumn (by omega) hvisible, hpattern]
    simp [List.getElem?_append, hx]
  · rw [drained_glyph_cell hport hsink htick hin hline hcolumn (by omega) (by omega), hpattern]
    simp

/-- Settles O52: `glyph_lands` for the three sources of a pattern. -/
theorem glyphLandsAtTheCursor : Obligations.GlyphLandsAtTheCursor := by
  intro chr s hin hline hcolumn hchr hnl hcr
  refine ⟨fun hspace => ?_, fun ptr hspace hslot => ?_, fun hspace hslot => ?_⟩
  · exact glyph_lands (.inl rfl) (patternBytes_of_space_le hspace s) hin hline hcolumn
  · exact glyph_lands (.inr rfl) (patternBytes_of_slot_some hspace hslot) hin hline hcolumn
  · exact glyph_lands (.inr rfl) (patternBytes_of_slot_none hspace hslot) hin hline hcolumn

/-! ## Runs of pages: one Seek and the same number of data bytes for each (R160, R164, R170) -/

/-- The events of page `sl + p` of a run: a Seek to column `sc`, then `n` bytes. -/
def pageRowEvents (sc sl : Byte) (n : Nat) (bytes : Nat → Nat → Byte) (p : Nat) : List Event :=
  seekEvents sc (u8 (sl.toNat + p)) ++ ((List.range n).map (bytes p)).map Event.data

theorem blitRowEvents_eq (ptr : Addr) (columns sc sl : Byte) (mx : Nat) (s : State) :
    blitRowEvents ptr columns sc sl mx s =
      pageRowEvents sc sl mx fun r x => s.sourceByte (addressAt ptr (r * columns.toNat + x)) := by
  funext r
  simp only [blitRowEvents, pageRowEvents, rowAddrs, List.map_map]
  rfl

theorem barPageEvents_eq (sc sl b : Byte) : barPageEvents sc sl b = pageRowEvents sc sl 1 fun _ _ => b := rfl

/-- The sink at the first byte of a page of a run. -/
theorem Sink.reactAll_pageRowEvents (tick : Nat) (sc : Byte) {sl : Byte} (n : Nat) (bytes : Nat → Nat → Byte) {p : Nat}
    (hp : sl.toNat + p < 8) (k : Sink) :
    Sink.reactAll tick (pageRowEvents sc sl n bytes p) k =
      Sink.reactAll (tick + 3) (((List.range n).map (bytes p)).map Event.data)
        { k with page := BitVec.ofNat 4 (sl.toNat + p), column := sc } := by
  have hline : (u8 (sl.toNat + p)).toNat = sl.toNat + p := by
    rw [BitVec.toNat_ofNat]
    omega
  rw [pageRowEvents, Sink.reactAll_append, Sink.reactAll_seekEvents _ (by omega), hline]
  rfl

/-- One page of a run writes its own cells, as the cells of that column on any page of the run see it. -/
theorem Sink.ramAt_pageRowEvents (tick : Nat) {sc sl : Byte} {n : Nat} (bytes : Nat → Nat → Byte) {p q x : Nat}
    (hp : sl.toNat + p < 8) (hq : sl.toNat + q < 8) (hend : sc.toNat + n ≤ 132) (hx : x < n)
    (hvisible : 4 ≤ sc.toNat + x) (k : Sink) :
    (Sink.reactAll tick (pageRowEvents sc sl n bytes q) k).ramAt (BitVec.ofNat 4 (sl.toNat + p)) (u8 (sc.toNat + x)) =
      if p = q then some (bytes p x) else k.ramAt (BitVec.ofNat 4 (sl.toNat + p)) (u8 (sc.toNat + x)) := by
  have hpage : (BitVec.ofNat 4 (sl.toNat + q)).toNat = sl.toNat + q := by
    rw [BitVec.toNat_ofNat]
    omega
  rw [Sink.reactAll_pageRowEvents tick sc n bytes hq]
  split
  · next h =>
    subst h
    rw [Sink.ramAt_reactAll_data _ (k := { k with page := _, column := sc }) (by simp only; omega) (by simpa using hend)
      (by simpa using hx) hvisible]
    simp [hx]
  · next h =>
    obtain ⟨-, -, hcell⟩ := Sink.reactAll_data (tick + 3) ((List.range n).map (bytes q))
      { k with page := BitVec.ofNat 4 (sl.toNat + q), column := sc } (by simp only; omega) (by simpa using hend)
    have hne : BitVec.ofNat 4 (sl.toNat + p) ≠ BitVec.ofNat 4 (sl.toNat + q) := by
      intro heq
      have := congrArg BitVec.toNat heq
      rw [hpage, BitVec.toNat_ofNat] at this
      omega
    rw [hcell _ _ (by rw [BitVec.toNat_ofNat]; omega), if_neg fun h => hne h.1, Sink.ramAt_withPointer]

/-- After a run of pages inside the display each of its cells holds its byte; the cells of its columns on another page
are as before. -/
theorem Sink.ramAt_pageRun (tick : Nat) {sc sl : Byte} {n : Nat} (bytes : Nat → Nat → Byte) {rows : List Nat}
    {p x : Nat} (hrows : ∀ q ∈ rows, sl.toNat + q < 8) (hp : sl.toNat + p < 8) (hend : sc.toNat + n ≤ 132) (hx : x < n)
    (hvisible : 4 ≤ sc.toNat + x) (k : Sink) :
    (Sink.reactAll tick (rows.flatMap (pageRowEvents sc sl n bytes)) k).ramAt (BitVec.ofNat 4 (sl.toNat + p))
        (u8 (sc.toNat + x)) =
      if p ∈ rows then some (bytes p x) else k.ramAt (BitVec.ofNat 4 (sl.toNat + p)) (u8 (sc.toNat + x)) := by
  induction rows generalizing tick k with
  | nil => rfl
  | cons q rows ih =>
    rw [List.forall_mem_cons] at hrows
    rw [List.flatMap_cons, Sink.reactAll_append, ih _ hrows.2,
      Sink.ramAt_pageRowEvents tick bytes hp hrows.1 hend hx hvisible]
    by_cases hpq : p = q
    · simp [hpq]
    · simp [hpq]

/-- A port that ends in a run of pages and a Seek, whatever stands before them: the cells of the run hold its bytes. -/
theorem drained_cell_of_port_pageRun {t : State} {events : List Event} {sc sl seekColumn seekLine : Byte} {n : Nat}
    {bytes : Nat → Nat → Byte} {rows : List Nat}
    (hport : t.port = events ++ rows.flatMap (pageRowEvents sc sl n bytes) ++ seekEvents seekColumn seekLine)
    (hline : seekLine.toNat < 16) (hrows : ∀ q ∈ rows, sl.toNat + q < 8) (hend : sc.toNat + n ≤ 132) {p x : Nat}
    (hp : p ∈ rows) (hx : x < n) (hvisible : 4 ≤ sc.toNat + x) :
    t.drained.sink.ramAt (BitVec.ofNat 4 (sl.toNat + p)) (u8 (sc.toNat + x)) = some (bytes p x) := by
  rw [drained_sink, hport, Sink.reactAll_append, Sink.reactAll_seekEvents _ hline, Sink.ramAt_withPointer,
    Sink.reactAll_append, Sink.ramAt_pageRun _ bytes hrows (hrows p hp) hend hx hvisible, if_pos hp]

/-! ## Blits (R164) -/

/-- A clip that is not empty ends at the edge at the latest (R161). -/
theorem clip_end_le {start count edge i : Nat} (h : i < clip start count edge) :
    start + clip start count edge ≤ edge := by
  unfold clip at h ⊢
  split_ifs at h ⊢ <;> omega

/-- Settles O50: a blit is a run of pages, and its clips keep it inside the display. -/
theorem bitmapLandsRowMajor : Obligations.BitmapLandsRowMajor := by
  intro columns lines ptr s t r x hinit ht hr hx hvisible
  obtain ⟨hwidth, hheight⟩ := (initialised_iff s).1 hinit
  have hr' : r < clippedHeight lines s := hr
  have hx' : x < clippedWidth columns s := hx
  have hright : s.cursorColumn.toNat + clippedWidth columns s ≤ s.widthPx.toNat := clip_end_le hx'
  have hbottom : s.cursorLine.toNat + clippedHeight lines s ≤ s.heightPx.toNat / 8 := clip_end_le hr'
  rw [hwidth, show (128 : Byte).toNat = 128 from rfl] at hright
  rw [hheight, show (64 : Byte).toNat = 64 from rfl] at hbottom
  have hport := congrArg State.port (eq_requestResult rfl ht)
  rw [requestResult, blitRowEvents_eq] at hport
  rw [Nat.add_assoc]
  have hrows : ∀ q ∈ List.range (clippedHeight lines s), s.cursorLine.toNat + q < 8 := by
    intro q hq
    have hq' := List.mem_range.1 hq
    omega
  exact drained_cell_of_port_pageRun hport (by omega) hrows (by omega) (List.mem_range.2 hr') hx' hvisible

/-! ## Bars (R56, R170, R174) -/

/-- How many pixels of a bar's region stay dark: they are its topmost (R174). -/
def barDark (lines value : Byte) : Nat := 8 * lines.toNat - min value.toNat (8 * lines.toNat)

theorem barRegion_eq (lines : Byte) : barRegion lines = 8 * lines.toNat := Nat.mul_comm _ _

/-- The mark page is that of the last dark pixel; for a full bar it is page 0, as the division truncates (R172). -/
theorem barMark_eq (lines value : Byte) : barMark lines value = (barDark lines value - 1) / 8 := by
  rw [barMark, barHeight, barRegion_eq, barDark]
  by_cases hfull : 8 * lines.toNat ≤ value.toNat
  · have hnumerator : ((8 * lines.toNat : Nat) : Int) - 1 - (min value.toNat (8 * lines.toNat) : Nat) = -1 := by omega
    rw [hnumerator, Nat.min_eq_right hfull, Nat.sub_self]
    rfl
  · have hnumerator : ((8 * lines.toNat : Nat) : Int) - 1 - (min value.toNat (8 * lines.toNat) : Nat) =
        (8 * lines.toNat - min value.toNat (8 * lines.toNat) - 1 : Nat) := by omega
    rw [hnumerator, ← Int.ofNat_tdiv, Int.toNat_natCast]

theorem barShift_eq (lines value : Byte) : barShift lines value = barDark lines value - 8 * barMark lines value := by
  simp only [barShift, barHeight, barRegion_eq, barDark, Config.pageRows]
  omega

/-- The mark page's byte is lit from the shift count on (R173). -/
theorem barByte_getLsbD (lines value : Byte) {j : Nat} (hj : j < 8) :
    (barByte lines value).getLsbD j = decide (barShift lines value ≤ j) := by
  have hones : Nat.testBit 0xFF (j - barShift lines value) = true := by
    rw [show 0xFF = 2 ^ 8 - 1 from rfl, Nat.testBit_two_pow_sub_one]
    simpa using (Nat.sub_le _ _).trans_lt hj
  rw [barByte, u8, BitVec.getLsbD_ofNat, Nat.testBit_shiftLeft, hones]
  simp [hj]

/-- The byte of page `p` of a bar's region (R170, R173, R175). -/
def barColumnByte (lines value : Byte) (p : Nat) : Byte :=
  if p < barMark lines value then 0x00 else if p = barMark lines value then barByte lines value else 0xFF

/-- A pixel of the region is lit exactly if it stands below the dark ones. -/
theorem barColumnByte_getLsbD (lines value : Byte) (p : Nat) {j : Nat} (hj : j < 8) :
    (barColumnByte lines value p).getLsbD j = decide (barDark lines value ≤ 8 * p + j) := by
  have hmark := barMark_eq lines value
  have hshift := barShift_eq lines value
  unfold barColumnByte
  split_ifs with habove hp
  · have hdark : ¬barDark lines value ≤ 8 * p + j := by omega
    rw [decide_eq_false hdark]
    exact BitVec.getLsbD_zero
  · rw [barByte_getLsbD _ _ hj, decide_eq_decide]
    omega
  · have hlit : barDark lines value ≤ 8 * p + j := by omega
    rw [decide_eq_true hlit]
    exact BitVec.getLsbD_allOnes.trans (decide_eq_true hj)

/-- The mark page is a page of the region (R172). -/
theorem barMark_lt {lines : Byte} (h : 1 ≤ lines.toNat) (value : Byte) : barMark lines value < lines.toNat := by
  have hdark : barDark lines value ≤ 8 * lines.toNat := Nat.sub_le _ _
  rw [barMark_eq]
  omega

/-- The pages of a region are those above the mark, the mark and those below it. -/
theorem range_eq_around_mark {mark n : Nat} (h : mark < n) :
    List.range n = List.range mark ++ mark :: List.range' (mark + 1) (n - (mark + 1)) := by
  have htail : mark :: List.range' (mark + 1) (n - (mark + 1)) = List.range' mark (n - mark) := by
    rw [← List.range'_succ, show n - (mark + 1) + 1 = n - mark by omega]
  have hsplit : List.range' 0 mark ++ List.range' (0 + mark) (n - mark) = List.range' 0 (mark + (n - mark)) :=
    List.range'_append_1
  rw [Nat.zero_add, Nat.add_sub_cancel' h.le] at hsplit
  rw [htail, List.range_eq_range', List.range_eq_range', hsplit]

/-- A page of a bar is the page of a run. -/
theorem pageRowEvents_barColumnByte {lines value b : Byte} {p : Nat} (h : barColumnByte lines value p = b)
    (sc sl : Byte) :
    pageRowEvents sc sl 1 (fun q _ => barColumnByte lines value q) p = barPageEvents sc sl b p := by
  rw [← h]
  rfl

/-- A bar is a run of pages, one for each page of the region, and a Seek (R170). -/
theorem drawColumn_port {lines : Byte} (h : 1 ≤ lines.toNat) (value : Byte) (s : State) :
    (requestResult (.drawColumn lines value) s).port =
      s.port ++ (List.range lines.toNat).flatMap
          (pageRowEvents s.cursorColumn s.cursorLine 1 fun p _ => barColumnByte lines value p) ++
        seekEvents (u8 (s.cursorColumn.toNat + 1)) s.cursorLine := by
  have habove : ∀ p ∈ List.range (barMark lines value), barColumnByte lines value p = 0x00 :=
    fun p hp => if_pos (List.mem_range.1 hp)
  have hmark : barColumnByte lines value (barMark lines value) = barByte lines value := by simp [barColumnByte]
  have hbelow : ∀ p ∈ List.range' (barMark lines value + 1) (lines.toNat - (barMark lines value + 1)),
      barColumnByte lines value p = 0xFF := by
    intro p hp
    obtain ⟨hlow, -⟩ := List.mem_range'_1.1 hp
    rw [barColumnByte, if_neg (by omega), if_neg (by omega)]
  rw [range_eq_around_mark (barMark_lt h value), List.flatMap_append, List.flatMap_cons,
    List.flatMap_congr fun p hp => pageRowEvents_barColumnByte (habove p hp) _ _, pageRowEvents_barColumnByte hmark,
    List.flatMap_congr fun p hp => pageRowEvents_barColumnByte (hbelow p hp) _ _]
  simp only [requestResult, List.append_assoc]

/-- A visible pixel shows its bit of a byte with a stated value (R56). -/
theorem Sink.pixel_of_ramAt {k : Sink} {x y : Nat} {b : Byte} (hx : x < 128) (hy : y < 64)
    (hcell : k.ramAt (BitVec.ofNat 4 (y / 8)) (u8 (x + 4)) = some b) : k.pixel x y = some (b.getLsbD (y % 8)) := by
  have hvisible : x < Config.lineFill ∧ y < Config.height.toNat := ⟨hx, hy⟩
  rw [Sink.pixel, if_pos hvisible, hcell]
  rfl

/-- Settles O51: a bar is a run of pages, and the pixels of its bytes are those of `barColumnByte_getLsbD`. -/
theorem barLightsItsLowestPixels : Obligations.BarLightsItsLowestPixels := by
  intro lines value s t y hleft hright hfits ht hy
  have hpages : s.cursorLine.toNat + lines.toNat ≤ 8 := of_decide_eq_true hfits
  have hport := congrArg State.port (eq_requestResult rfl ht)
  rw [drawColumn_port (by omega)] at hport
  have hrows : ∀ q ∈ List.range lines.toNat, s.cursorLine.toNat + q < 8 := by
    intro q hq
    have hq' := List.mem_range.1 hq
    omega
  have hpage : y / 8 ∈ List.range lines.toNat := List.mem_range.2 (by omega)
  have hcell := drained_cell_of_port_pageRun hport (by omega) hrows (by omega) hpage Nat.zero_lt_one hleft
  rw [Sink.pixel_of_ramAt (b := barColumnByte lines value (y / 8)) (by omega) (by omega)]
  · rw [Nat.mul_add_mod, barColumnByte_getLsbD _ _ _ (Nat.mod_lt _ (by decide)), Nat.div_add_mod]
    rfl
  · rw [Nat.mul_add_div (by decide), Nat.sub_add_cancel hleft]
    exact hcell

end Sys2Proof.Machine
end

section
/-!
PROOFS. The statements about the encodings and the port of spec/30_encoding.md: decoder, encoder and opcode table (R82 to
R85, R87, R91 to R93, R95, R96), and what a step does with the word it takes, with a response that is due and with a
transport that is not ready (R80, R81, R86 to R89).
-/

namespace Sys2Proof.Machine

/-! ## The decoder on a word written as its fields (R82, R83) -/

section Fields

variable (a b : Byte) (ptr : Addr)

theorem decodeRequest_setCursor :
    decodeRequest (Request.ofFields 0x01 a b ptr) = .ok (.setCursor a b) := by simp [decodeRequest]

theorem decodeRequest_begin : decodeRequest (Request.ofFields 0x02 a b ptr) = .ok .begin := by
  simp [decodeRequest]

theorem decodeRequest_clear : decodeRequest (Request.ofFields 0x03 a b ptr) = .ok .clear := by
  simp [decodeRequest]

theorem decodeRequest_clearLine : decodeRequest (Request.ofFields 0x04 a b ptr) = .ok .clearLine := by
  simp [decodeRequest]

theorem decodeRequest_home : decodeRequest (Request.ofFields 0x05 a b ptr) = .ok .home := by
  simp [decodeRequest]

theorem decodeRequest_write :
    decodeRequest (Request.ofFields 0x06 a b ptr) = .ok (Instr.write a) := by simp [decodeRequest]

theorem decodeRequest_create :
    decodeRequest (Request.ofFields 0x07 a b ptr) = .ok (Instr.create a ptr) := by simp [decodeRequest]

theorem decodeRequest_drawBitmap :
    decodeRequest (Request.ofFields 0x08 a b ptr) = .ok (.drawBitmap a b ptr) := by simp [decodeRequest]

theorem decodeRequest_drawColumn :
    decodeRequest (Request.ofFields 0x09 a b ptr) = .ok (.drawColumn a b) := by simp [decodeRequest]

end Fields

/-- Settles O5: the decoder's answer for each of the nine opcodes. -/
theorem requestFieldsByOperation : Obligations.RequestFieldsByOperation := fun a b ptr =>
  ⟨decodeRequest_setCursor a b ptr, decodeRequest_begin a b ptr, decodeRequest_clear a b ptr,
    decodeRequest_clearLine a b ptr, decodeRequest_home a b ptr, decodeRequest_write a b ptr,
    decodeRequest_create a b ptr, decodeRequest_drawBitmap a b ptr, decodeRequest_drawColumn a b ptr⟩

/-- The opcodes are the nine of R84 and the reserved ones of R87. -/
theorem opcode_cases (op : Byte) :
    (op = 0x01 ∨ op = 0x02 ∨ op = 0x03 ∨ op = 0x04 ∨ op = 0x05 ∨ op = 0x06 ∨ op = 0x07 ∨ op = 0x08 ∨ op = 0x09) ∨
      op.toNat = 0 ∨ 0x0A ≤ op.toNat := by
  revert op
  decide

theorem decodeRequest_reserved {w : Request} (h : (Request.op w).toNat = 0 ∨ 0x0A ≤ (Request.op w).toNat) :
    decodeRequest w = .error (.reservedOpcode (Request.op w)) := by
  unfold decodeRequest
  split
  case h_10 => rfl
  all_goals omega

/-! ## The operand classes (R95, R96) -/

theorem write_eq_writeReject {chr : Byte} (h : 0x80 ≤ chr.toNat) : Instr.write chr = .writeReject chr := if_pos h

theorem write_carriageReturn : Instr.write Config.carriageReturn = .writeCr := by decide

theorem write_newline : Instr.write Config.newline = .writeNl := by decide

theorem write_eq_writePrint {chr : Byte} (hlow : 0x20 ≤ chr.toNat) (hhigh : chr.toNat < 0x80) :
    Instr.write chr = .writePrint chr := by
  have hcr : chr ≠ Config.carriageReturn := by rintro rfl; exact absurd hlow (by decide)
  have hnl : chr ≠ Config.newline := by rintro rfl; exact absurd hlow (by decide)
  rw [Instr.write, if_neg (not_le.2 hhigh), if_neg hcr, if_neg hnl, if_pos hlow]

/-- Settles O6: one lemma for each class. -/
theorem writeClassesByCode : Obligations.WriteClassesByCode := fun _ =>
  ⟨write_eq_writeReject,
    fun h => (BitVec.eq_of_toNat_eq h : _ = Config.carriageReturn) ▸ write_carriageReturn,
    fun h => (BitVec.eq_of_toNat_eq h : _ = Config.newline) ▸ write_newline,
    fun hlow hhigh => write_eq_writePrint hlow (Nat.lt_succ_of_le hhigh),
    fun h hnl hcr => write_eq_writeCtrl (Nat.lt_succ_of_le h) hnl hcr⟩

theorem create_eq_createCharIgnored {code : Byte} (h : 0x20 ≤ code.toNat) (ptr : Addr) :
    Instr.create code ptr = .createCharIgnored code ptr :=
  if_neg (not_lt.2 h)

/-- A control code is below 0x20 and neither NL nor CR. -/
theorem write_of_isControl {chr : Byte} (h : isControl chr = true) : Instr.write chr = .writeCtrl chr := by
  simp only [isControl, Bool.and_eq_true, decide_eq_true_eq, bne_iff_ne] at h
  obtain ⟨⟨hlow, hcr⟩, hnl⟩ := h
  exact write_eq_writeCtrl hlow (BitVec.toNat_ne.mp hnl) (BitVec.toNat_ne.mp hcr)

/-- Every class of WRITE is encoded alike. -/
theorem encode_write (chr : Byte) : encode (Instr.write chr) = .request (Request.ofFields 0x06 chr 0 0) := by
  unfold Instr.write
  split_ifs with _ hcr hnl
  · rfl
  · rw [hcr]; rfl
  · rw [hnl]; rfl
  · rfl
  · rfl

/-- Both classes of CREATECHAR are encoded alike. -/
theorem encode_create (code : Byte) (ptr : Addr) :
    encode (Instr.create code ptr) = .request (Request.ofFields 0x07 code 0 ptr) := by
  unfold Instr.create
  split <;> rfl

/-! ## The two decoders give the instructions back -/

theorem decodeCommand_pageSel (page : Nibble) : decodeCommand (0xB#4 ++ page) = .ok (.pageSel page) := by
  rw [decodeCommand, BitVec.extractLsb'_append_eq_left, BitVec.extractLsb'_append_eq_right]
  rfl

theorem decodeCommand_colHi (high : Nibble) : decodeCommand (0x1#4 ++ high) = .ok (.colHi high) := by
  rw [decodeCommand, BitVec.extractLsb'_append_eq_left, BitVec.extractLsb'_append_eq_right]
  rfl

theorem decodeCommand_colLo (low : Nibble) : decodeCommand (0x0#4 ++ low) = .ok (.colLo low) := by
  rw [decodeCommand, BitVec.extractLsb'_append_eq_left, BitVec.extractLsb'_append_eq_right]
  rfl

theorem decode_encode_write {chr : Byte} {i : Instr} (h : Instr.write chr = i) : decode (encode i) = .ok i := by
  rw [← h, encode_write]
  exact decodeRequest_write chr 0 0

theorem decode_encode_create {code : Byte} {ptr : Addr} {i : Instr} (h : Instr.create code ptr = i) :
    decode (encode i) = .ok i := by
  rw [← h, encode_create]
  exact decodeRequest_create code 0 ptr

/-- Settles O1: the decoder gives back every field an operation uses, and well-formedness says that the term's class is
the one its operand falls in. -/
theorem decodeOfEncode : Obligations.DecodeOfEncode := by
  intro i hwf
  cases i with
  | setCursor column line => exact decodeRequest_setCursor column line 0
  | begin => exact decodeRequest_begin 0 0 0
  | clear => exact decodeRequest_clear 0 0 0
  | clearLine => exact decodeRequest_clearLine 0 0 0
  | home => exact decodeRequest_home 0 0 0
  | writeReject chr => exact decode_encode_write (write_eq_writeReject (of_decide_eq_true hwf))
  | writeCr => exact decode_encode_write write_carriageReturn
  | writeNl => exact decode_encode_write write_newline
  | writePrint chr =>
    obtain ⟨hlow, hhigh⟩ := Bool.and_eq_true_iff.1 hwf
    exact decode_encode_write (write_eq_writePrint (of_decide_eq_true hlow) (of_decide_eq_true hhigh))
  | writeCtrl chr => exact decode_encode_write (write_of_isControl hwf)
  | createChar code ptr => exact decode_encode_create (create_eq_createChar (of_decide_eq_true hwf) ptr)
  | createCharIgnored code ptr => exact decode_encode_create (create_eq_createCharIgnored (of_decide_eq_true hwf) ptr)
  | drawBitmap columns lines ptr => exact decodeRequest_drawBitmap columns lines ptr
  | drawColumn lines value => exact decodeRequest_drawColumn lines value 0
  | pageSel page => exact decodeCommand_pageSel page
  | colHi high => exact decodeCommand_colHi high
  | colLo low => exact decodeCommand_colLo low

/-- Settles O2: `decodeRequest_wf` for a word, the three commands of `decodeCommand_cases` for a byte. -/
theorem decodeGivesWellFormed : Obligations.DecodeGivesWellFormed := by
  intro c i hdec
  cases c with
  | request w =>
    obtain ⟨hwf, hreq⟩ := decodeRequest_wf hdec
    exact ⟨hwf, iff_of_true hreq ⟨w, rfl⟩⟩
  | command b => obtain ⟨_, rfl⟩ | ⟨_, rfl⟩ | ⟨_, rfl⟩ := decodeCommand_cases hdec <;> simp [Instr.wf, Instr.isRequest]

/-- Settles O7: each word is decoded. -/
theorem writtenOutWordsDecode : Obligations.WrittenOutWordsDecode := by
  unfold Obligations.WrittenOutWordsDecode
  decide

/-! ## The opcode table (R84, R95, R96) -/

/-- `Laws.TableRow` for every instruction. -/
theorem mnemonics_tableRows_encode (i : Instr) : Laws.TableRow.Statement i := by
  cases i with
  | setCursor column line => exact Laws.TableRow.setCursor column line
  | begin => exact Laws.TableRow.begin
  | clear => exact Laws.TableRow.clear
  | clearLine => exact Laws.TableRow.clearLine
  | home => exact Laws.TableRow.home
  | writeReject chr => exact Laws.TableRow.writeReject chr
  | writeCr => exact Laws.TableRow.writeCr
  | writeNl => exact Laws.TableRow.writeNl
  | writePrint chr => exact Laws.TableRow.writePrint chr
  | writeCtrl chr => exact Laws.TableRow.writeCtrl chr
  | createChar code ptr => exact Laws.TableRow.createChar code ptr
  | createCharIgnored code ptr => exact Laws.TableRow.createCharIgnored code ptr
  | drawBitmap columns lines ptr => exact Laws.TableRow.drawBitmap columns lines ptr
  | drawColumn lines value => exact Laws.TableRow.drawColumn lines value
  | pageSel page => exact Laws.TableRow.pageSel page
  | colHi high => exact Laws.TableRow.colHi high
  | colLo low => exact Laws.TableRow.colLo low

/-- The rows of an operation without operands do not look at the first operand. -/
theorem rowsOf_operandless : ∀ op ∈ [0x02, 0x03, 0x04, 0x05], ∀ a : Byte, rowsOf op a = rowsOf op 0 := by
  decide

theorem tableRows_encode_operandless {i : Instr} {op : Byte} (henc : encode i = .request (Request.ofFields op 0 0 0))
    (hop : op ∈ [0x02, 0x03, 0x04, 0x05]) (a : Byte) : tableRows (encode i) = rowsOf op a := by
  rw [henc, tableRows_ofFields, rowsOf_operandless op hop a]

/-- Every row fixes the opcode, to one of the nine. -/
theorem requestTable_opcode : ∀ row ∈ requestTable,
    row.mask >>> 24 / 2 ^ 8 = 2 ^ 8 - 1 ∧ 1 ≤ row.value >>> 24 / 2 ^ 8 ∧ row.value >>> 24 / 2 ^ 8 ≤ 9 := by
  decide

theorem rowsOf_reserved {op : Byte} (h : op.toNat = 0 ∨ 0x0A ≤ op.toNat) (a : Byte) : rowsOf op a = [] := by
  refine List.filter_eq_nil_iff.2 fun row hrow hcovers => ?_
  obtain ⟨hmask, hlow, hhigh⟩ := requestTable_opcode row hrow
  have hop : (op.toNat * 256 + a.toNat) / 2 ^ 8 = op.toNat := by omega
  have hvalue : row.value >>> 24 / 2 ^ 8 = op.toNat := by
    rw [← beq_iff_eq.1 hcovers, Nat.and_div_two_pow, hop, hmask, Nat.and_two_pow_sub_one_eq_mod,
      Nat.mod_eq_of_lt op.isLt]
  omega

/-- A defined opcode decodes to an instruction, whose encoding lies in the same rows: the fields that the encoder drops
select no row. -/
theorem decodeRequest_defined {op : Byte} (hop : 1 ≤ op.toNat ∧ op.toNat ≤ 9) (a b : Byte) (ptr : Addr) :
    ∃ i, decodeRequest (Request.ofFields op a b ptr) = .ok i ∧ tableRows (encode i) = rowsOf op a := by
  obtain rfl | rfl | rfl | rfl | rfl | rfl | rfl | rfl | rfl := (opcode_cases op).resolve_right (by omega)
  · exact ⟨_, decodeRequest_setCursor a b ptr, tableRows_ofFields _ _ _ _⟩
  · exact ⟨_, decodeRequest_begin a b ptr, tableRows_encode_operandless rfl (by decide) a⟩
  · exact ⟨_, decodeRequest_clear a b ptr, tableRows_encode_operandless rfl (by decide) a⟩
  · exact ⟨_, decodeRequest_clearLine a b ptr, tableRows_encode_operandless rfl (by decide) a⟩
  · exact ⟨_, decodeRequest_home a b ptr, tableRows_encode_operandless rfl (by decide) a⟩
  · exact ⟨_, decodeRequest_write a b ptr, by rw [encode_write, tableRows_ofFields]⟩
  · exact ⟨_, decodeRequest_create a b ptr, by rw [encode_create, tableRows_ofFields]⟩
  · exact ⟨_, decodeRequest_drawBitmap a b ptr, tableRows_ofFields _ _ _ _⟩
  · exact ⟨_, decodeRequest_drawColumn a b ptr, tableRows_ofFields _ _ _ _⟩

/-- A word with a defined opcode decodes to an instruction, and lies in one row, of its mnemonic. -/
theorem mnemonics_tableRows_defined {w : Request} (hop : 1 ≤ (Request.op w).toNat ∧ (Request.op w).toNat ≤ 9) :
    ∃ i, decodeRequest w = .ok i ∧ (tableRows (.request w)).map TableRow.mnemonic = [i.mnemonic] := by
  obtain ⟨i, hdec, hrows⟩ := decodeRequest_defined hop (Request.a w) (Request.b w) (Request.ptr w)
  rw [← tableRows_ofFields _ _ (Request.b w) (Request.ptr w), Request.ofFields_fields] at hrows
  rw [Request.ofFields_fields] at hdec
  exact ⟨i, hdec, hrows ▸ mnemonics_tableRows_encode i (decodeRequest_wf hdec).1⟩

theorem tableRows_reserved {w : Request} (hop : (Request.op w).toNat = 0 ∨ 0x0A ≤ (Request.op w).toNat) :
    tableRows (.request w) = [] := by
  rw [← Request.ofFields_fields w, tableRows_ofFields, rowsOf_reserved hop]

/-- Settles O3: the rows of a defined opcode have one mnemonic between them, and a reserved opcode has no row. -/
theorem tableRowsDisjointAndComplete : Obligations.TableRowsDisjointAndComplete := by
  refine fun w => ⟨fun hop => ?_, tableRows_reserved⟩
  obtain ⟨i, -, hmnemonics⟩ := mnemonics_tableRows_defined hop
  simpa using congrArg List.length hmnemonics

/-- Settles O4: for a word by whether its opcode is defined, for a byte by going through all 256. -/
theorem decoderAgreesWithTable : Obligations.DecoderAgreesWithTable := by
  intro c
  cases c with
  | command b => revert b; decide
  | request w =>
    by_cases hop : 1 ≤ (Request.op w).toNat ∧ (Request.op w).toNat ≤ 9
    · obtain ⟨i, hdec, hmnemonics⟩ := mnemonics_tableRows_defined hop
      simp only [decode, hdec, hmnemonics]
    · have hreserved : (Request.op w).toNat = 0 ∨ 0x0A ≤ (Request.op w).toNat := by omega
      simp only [decode, decodeRequest_reserved hreserved, tableRows_reserved hreserved, List.map_nil]

/-! ## The step at a ready block (R80, R81, R85, R87, R200) -/

/-- A ready block's step takes the host's request word (R80). -/
theorem step_request {s : State} {w : Request} {rest : List HostAction} (hready : s.ready = true)
    (hhost : s.host = .request w :: rest) : step s = issueRequest w (takeAction rest s) := by
  obtain ⟨hport, hresponse⟩ := (ready_iff s).1 hready
  simp [step, hport, hresponse, hhost, hostAct]

/-- Settles O8: `step_request` for a word that decodes. -/
theorem stepRunsDecodedRequest : Obligations.StepRunsDecodedRequest := fun _ _ _ _ hready hhost hdec =>
  (step_request hready hhost).trans (issueRequest_decoded hdec _)

/-- Settles O11: `step_request` for a word that does not decode. -/
theorem reservedOpcodeChangesNothing : Obligations.ReservedOpcodeChangesNothing := fun _ _ _ hready hhost hop =>
  (step_request hready hhost).trans (issueRequest_reserved (decodeRequest_reserved hop) _)

/-- What a table word decodes to, by its format. -/
theorem decode_of_decodeTableWord {nbits w : Nat} {i : Instr} (h : decodeTableWord nbits w = some i) :
    decode (if nbits ≤ 8 then .command (BitVec.ofNat 8 w) else .request (BitVec.ofNat 40 w)) = .ok i := by
  unfold decodeTableWord at h
  split at h
  · next j hdec => rwa [Option.some.inj h] at hdec
  · cases h

/-- Settles O10: `withFetchWord` makes the state one of O8's for a word, and one of O9's for a byte. -/
theorem fetchWordRunsNext : Obligations.FetchWordRunsNext := by
  refine fun s w i => ⟨fun h => ?_, fun h => ?_⟩
  · exact stepRunsDecodedRequest (s.withFetchWord 40 w) _ s.host i rfl rfl (decode_of_decodeTableWord h)
  · exact stepRunsDecodedCommand.2 (s.withFetchWord 8 w) _ s.port i rfl (Option.some_ne_none _).symm
      (decode_of_decodeTableWord h)

/-! ## The step at a busy block (R81, R86, R88, R89) -/

/-- Settles O14: a command or a data byte is offered to the transport, so `out_ready` at 0 holds it; a delay is not. -/
theorem blockWaitsForTransport : Obligations.BlockWaitsForTransport := by
  refine ⟨fun s e rest later hport hoffered hready => ?_, fun s ms rest hport => ?_⟩
  · have hheld : s.held e = true := by
      cases e with
      | cmd | data => simp [State.held, Event.outPort, hready]
      | delay => simp [Event.isCmd, Event.isData] at hoffered
    rw [step_of_held hport hheld, waitForTransport, hready, List.tail_cons]
  · exact step_of_not_held hport (held_eq_false_of_isDelay rfl s)

theorem step_deliver {s : State} {count : Bit} (hport : s.port = []) (hresponse : s.response = some count) :
    step s = .next (deliverResponse count s) := by
  simp [step, hport, hresponse]

theorem step_idle {s : State} (hready : s.ready = true) (hhost : s.host = []) : step s = .next s := by
  obtain ⟨hport, hresponse⟩ := (ready_iff s).1 hready
  simp [step, hport, hresponse, hhost]

/-- Settles O16: with the response delivered nothing is due, and nothing waited at the port. -/
theorem dueResponseIsDelivered : Obligations.DueResponseIsDelivered :=
  ⟨fun _ _ hport hresponse => ⟨_, step_deliver hport hresponse, rfl, (ready_iff _).2 ⟨hport, rfl⟩⟩,
    fun _ => step_idle⟩

theorem ready_eq_false_of_response {s : State} (h : s.response.isSome = true) : s.ready = false := by
  simp [State.ready, Option.isNone_eq_false_iff.2 h]

/-- A request word leaves a response due, decoded or not (R81, R87). -/
theorem issueRequest_response {w : Request} {s t : State} (h : issueRequest w s = .next t) :
    t.response.isSome = true := by
  cases hdec : decodeRequest w with
  | error r =>
    rw [issueRequest_reserved hdec] at h
    cases h
    rfl
  | ok i =>
    rw [issueRequest_decoded hdec] at h
    exact (requestEffect_of_exec (decodeRequest_wf hdec).2 h).response

/-- A step of a busy block: it waits, or the sink takes an event, or the response is delivered. -/
theorem busy_cases {s t : State} (hbusy : s.ready = false) (hstep : step s = .next t) :
    (s.port ≠ [] ∧ t.host = s.host ∧ t.response = s.response) ∨
      ∃ count, s.port = [] ∧ s.response = some count ∧ t = deliverResponse count s := by
  cases step_cases hstep with
  | wait e rest hport hheld ht | sink e rest hport hheld ht =>
    subst ht
    exact .inl ⟨by simp [hport], rfl, rfl⟩
  | deliver count hport hrsp ht => exact .inr ⟨count, hport, hrsp, ht⟩
  | idle hready | store _ _ _ hready | reset _ hready | reserved _ _ _ hready | request _ _ _ hready =>
    simp [hbusy] at hready

/-- Settles O15: a taken request leaves a response due, and by `busy_cases` only its delivery makes the block ready. -/
theorem oneRequestAtATime : Obligations.OneRequestAtATime := by
  refine ⟨fun s t w rest hready hhost hstep => ?_, fun s t hbusy hstep => ?_, fun s t hwf hbusy hstep hready => ?_⟩
  · rw [step_request hready hhost] at hstep
    exact ready_eq_false_of_response (issueRequest_response hstep)
  · obtain ⟨-, hhost, -⟩ | ⟨count, -, -, rfl⟩ := busy_cases hbusy hstep
    · exact hhost
    · rfl
  · obtain ⟨hport, -, hresponse⟩ | ⟨count, hport, hresponse, rfl⟩ := busy_cases hbusy hstep
    · obtain ⟨-, -, hdue⟩ := (wf_iff s).1 hwf
      have hbusy' := ready_eq_false_of_response (s := t) (hresponse ▸ hdue.resolve_left hport)
      simp [hready] at hbusy'
    · exact ⟨count, hport, hresponse, rfl⟩

end Sys2Proof.Machine
end

section
/-!
PROOFS. The statements about addressing of spec/40_addressing.md: what SETCURSOR does (R110, R111), and what a Seek's
bytes determine and leave in the registers (R113).
-/

namespace Sys2Proof.Machine

/-! ## The bytes of a Seek as numbers (R91 to R93, R113) -/

theorem biasedColumn_toNat (column : Byte) : (biasedColumn column).toNat = (column.toNat + 4) % 256 :=
  BitVec.toNat_ofNat _ _

/-- For a line below 80 the sum of R91 does not wrap. -/
theorem pageSelByte_toNat {line : Byte} (h : line.toNat < 0x50) : (pageSelByte line).toNat = 0xB0 + line.toNat := by
  simp only [pageSelByte, Config.pageCmd, BitVec.toNat_ofNat]
  omega

theorem colHiByte_toNat (column : Byte) : (colHiByte column).toNat = 0x10 + column.toNat / 16 := by
  simp only [colHiByte, Config.colHiCmd, BitVec.toNat_ofNat]
  omega

theorem colLoByte_toNat (column : Byte) : (colLoByte column).toNat = column.toNat % 16 := by
  simp only [colLoByte, BitVec.toNat_ofNat]
  omega

/-- The commands of a Seek to a biased column, by R91 to R93. -/
theorem seekEvents_biasedColumn (column line : Byte) :
    seekEvents (biasedColumn column) line =
      [.cmd (u8 (0xB0 + line.toNat)), .cmd (u8 (0x10 + (column.toNat + 4) % 256 / 16)),
        .cmd (u8 ((column.toNat + 4) % 16))] := by
  have hlow : (column.toNat + 4) % 256 % 16 = (column.toNat + 4) % 16 := Nat.mod_mod_of_dvd _ (by decide)
  simp only [seekEvents, pageSelByte, colHiByte, colLoByte, biasedColumn_toNat, hlow, Config.pageCmd, Config.colHiCmd]

/-! ## SETCURSOR (R111) -/

/-- Settles O19: the closed form of SETCURSOR, with the bytes of its Seek. -/
theorem setCursorAddressesDisplay : Obligations.SetCursorAddressesDisplay := by
  intro column line s
  rw [exec_eq_requestResult rfl, requestResult, seekEvents_biasedColumn]
  rfl

/-! ## Seek (R113) -/

/-- The state a Seek leaves, written out: neither register's old value is in it (R110). -/
theorem seek_eq (column line : Byte) (s : State) :
    seek column line s =
      { s with cursorColumn := column, cursorLine := line, port := s.port ++ seekEvents column line } := rfl

/-- A SETCURSOR hides the one before it, but for that one's three commands at the port (R113 item 4). -/
theorem requestResult_setCursor_setCursor (c l c' l' : Byte) (s : State) :
    requestResult (.setCursor c' l') (requestResult (.setCursor c l) s) =
      { requestResult (.setCursor c' l') s with
        port := s.port ++ seekEvents (biasedColumn c) l ++ seekEvents (biasedColumn c') l' } := rfl

/-- What SETCURSOR adds to the port. -/
theorem requestResult_setCursor_port_drop (column line : Byte) (s : State) :
    (requestResult (.setCursor column line) s).port.drop s.port.length = seekEvents (biasedColumn column) line :=
  List.drop_left

/-- Settles O20: the bytes as numbers, the closed form of a Seek, and that of two SETCURSORs. -/
theorem seekProperties : Obligations.SeekProperties := by
  refine ⟨fun column line => ?_, seek_eq, fun c l c' l' s t u v ht hu hv => ?_⟩
  · have hhigh := colHiByte_toNat column
    have hlow := colLoByte_toNat column
    have hcolumn := column.isLt
    exact ⟨_, _, _, rfl, fun h => pageSelByte_toNat (by omega), by omega, by omega, by omega, by omega⟩
  · obtain rfl := eq_requestResult rfl ht
    obtain rfl := eq_requestResult rfl hu
    obtain rfl := eq_requestResult rfl hv
    refine ⟨seekEvents (biasedColumn c) l, rfl, ?_, ?_⟩
    · rw [requestResult_setCursor_port_drop]
      rfl
    · rw [requestResult_setCursor_port_drop, requestResult_setCursor_setCursor]

end Sys2Proof.Machine
end

section
/-!
PROOFS. The statements about initialising and clearing of spec/41_init_clear.md: what BEGIN, CLEAR, CLEARLINE, HOME and
WRITE(CR) leave (R120 to R122, R124, R125, R143), and how many events the first four emit and where (R123, R126). The
closed forms of the requests are there; the work is to put the rules' literal bytes for their events.
-/

namespace Sys2Proof.Machine

/-! ## Seeks to column 0 and CLEAR's pages, by the rules' bytes -/

/-- The commands of a Seek to logical column 0 (R122, R124, R125). -/
theorem seekEvents_homeColumn (line : Byte) :
    seekEvents homeColumn line = [.cmd (u8 (0xB0 + line.toNat)), .cmd 0x10, .cmd 0x04] :=
  seekEvents_biasedColumn 0 line

/-- One page of CLEAR, R122: narrowing the page number to a byte first does not change the page-select byte. -/
theorem clearPageEvents_eq (page : Nat) :
    clearPageEvents page = [.cmd (u8 (0xB0 + page)), .cmd 0x10, .cmd 0x04] ++ List.replicate 132 (.data 0) := by
  have hbyte : u8 (0xB0 + (u8 page).toNat) = u8 (0xB0 + page) := BitVec.eq_of_toNat_eq (by simp)
  rw [clearPageEvents, seekEvents_homeColumn, hbyte]

/-- The model's CLEAR events are R122's stream. -/
theorem clearPages_append_seekEvents :
    (List.range Config.clearPages).flatMap clearPageEvents ++ seekEvents homeColumn 0 = clearStream := by
  rw [seekEvents_homeColumn, funext clearPageEvents_eq]
  rfl

/-! ## The results (R120 to R122, R124, R125, R143) -/

/-- Settles O22: the closed form of CLEAR, with R122's stream for its events. -/
theorem clearWritesEveryPage : Obligations.ClearWritesEveryPage := by
  intro s
  rw [exec_eq_requestResult rfl, requestResult, List.append_assoc, clearPages_append_seekEvents]
  rfl

/-- Settles O21: INIT_SEQ ends in the tail of R120, and the closed form of BEGIN holds R122's stream. -/
theorem beginInitialisesAndClears : Obligations.BeginInitialisesAndClears := by
  refine ⟨⟨initSteps, Config.initDisplayEnable, Config.initAllPixelsOn, Config.initNormalDisplay, rfl⟩, fun s => ?_⟩
  rw [exec_eq_requestResult rfl, requestResult, List.append_assoc (s.port ++ initSeq), clearPages_append_seekEvents]
  rfl

/-- Settles O24: the closed form of CLEARLINE, with the bytes of its two Seeks. -/
theorem clearLineWritesOneLine : Obligations.ClearLineWritesOneLine := by
  intro s
  rw [exec_eq_requestResult rfl, requestResult, seekEvents_homeColumn]
  rfl

/-- Settles O25: the closed forms of HOME and WRITE(CR), with the bytes of their one Seek. -/
theorem homeAndCrReturnToColumnZero : Obligations.HomeAndCrReturnToColumnZero := by
  refine fun s => ⟨?_, ?_⟩ <;>
  · rw [exec_eq_requestResult rfl, requestResult, seekEvents_homeColumn]
    rfl

/-! ## What kind an event is -/

@[simp] theorem Event.kinds_cmd (b : Byte) :
    Event.isCmd (.cmd b) = true ∧ Event.isData (.cmd b) = false ∧ Event.isDelay (.cmd b) = false := ⟨rfl, rfl, rfl⟩

@[simp] theorem Event.kinds_data (b : Byte) :
    Event.isCmd (.data b) = false ∧ Event.isData (.data b) = true ∧ Event.isDelay (.data b) = false := ⟨rfl, rfl, rfl⟩

@[simp] theorem Event.kinds_delay (ms : Nat) :
    Event.isCmd (.delay ms) = false ∧ Event.isData (.delay ms) = false ∧ Event.isDelay (.delay ms) = true :=
  ⟨rfl, rfl, rfl⟩

/-! ## The counts (R123, R126) -/

theorem seekEvents_kinds (column line : Byte) :
    (seekEvents column line).countP Event.isCmd = 3 ∧ (seekEvents column line).countP Event.isData = 0 ∧
      (seekEvents column line).filter Event.isDelay = [] := ⟨rfl, rfl, rfl⟩

theorem clearPageEvents_kinds (page : Nat) :
    (clearPageEvents page).countP Event.isCmd = 3 ∧ (clearPageEvents page).countP Event.isData = 132 ∧
      (clearPageEvents page).filter Event.isDelay = [] := by
  simp [clearPageEvents, seekEvents_kinds, List.countP_replicate, -List.reduceReplicate]

theorem clearPageEvents_length (page : Nat) : (clearPageEvents page).length = 135 := by
  simp [clearPageEvents_eq]

/-- Eight pages and a Seek: 8 * 3 + 3 commands, 8 * 132 data bytes (R123), and no delay (R126). -/
theorem clearStream_kinds :
    clearStream.countP Event.isCmd = 27 ∧ clearStream.countP Event.isData = 1056 ∧
      clearStream.filter Event.isDelay = [] := by
  simp [← clearPages_append_seekEvents, List.countP_flatMap, List.filter_flatMap, Function.comp_def,
    clearPageEvents_kinds, seekEvents_kinds]

theorem clearStream_length : clearStream.length = 1083 := by
  simp [clearStream, List.length_flatMap]

/-- What is left of CLEAR's stream after `k` pages: a page takes 135 events, so page `k` stands at index `135 k` (R123). -/
theorem clearStream_drop {k : Nat} (hk : k ≤ 8) :
    clearStream.drop (135 * k) = (List.range' k (8 - k)).flatMap clearPageEvents ++ seekEvents homeColumn 0 := by
  have hsplit : List.range 8 = List.range k ++ List.range' k (8 - k) := by
    simpa [List.range_eq_range', Nat.add_sub_cancel' hk] using (List.range'_append_1 (s := 0) (m := k) (n := 8 - k)).symm
  have hlength : ((List.range k).flatMap clearPageEvents).length = 135 * k := by
    simp [List.length_flatMap, clearPageEvents_length, Nat.mul_comm]
  rw [← clearPages_append_seekEvents, hsplit, List.flatMap_append, List.append_assoc, ← hlength, List.drop_left]

/-- The steps before INIT_SEQ's tail hold commands only, so the tail's two delays are all (R126). -/
theorem initSeq_kinds :
    initSeq.countP Event.isData = 0 ∧ initSeq.filter Event.isDelay = [.delay 100, .delay 200] := by
  simp [initSeq, List.filter_map, Function.comp_def]

/-- Settles O23: the events are those of the closed forms; BEGIN's counts are INIT_SEQ's and CLEAR's, and the indices are
what a drop of whole pages leaves. -/
theorem eventCountsOfClearing : Obligations.EventCountsOfClearing := by
  obtain ⟨hcmd, hdata, hdelay⟩ := clearStream_kinds
  obtain ⟨hinitData, hinitDelay⟩ := initSeq_kinds
  intro s
  obtain ⟨hseekCmd, hseekData, -⟩ := seekEvents_kinds homeColumn s.cursorLine
  refine ⟨initSeq ++ clearStream, clearStream, _, _,
    ⟨⟨_, beginInitialisesAndClears.2 s, List.append_assoc ..⟩, ?_, ?_, ?_, ?_⟩,
    ⟨⟨_, clearWritesEveryPage s, rfl⟩, hcmd, hdata, clearStream_length, fun k hk => ?_, ?_⟩,
    ⟨⟨_, exec_eq_requestResult (i := .clearLine) rfl s, rfl⟩, ?_, ?_, ?_⟩,
    ⟨⟨_, exec_eq_requestResult (i := .home) rfl s, rfl⟩, hseekCmd, hseekData, rfl⟩⟩
  · rw [List.countP_append, hcmd]
  · rw [List.countP_append, hinitData, hdata]
  · rw [List.filter_append, hinitDelay, hdelay]
    rfl
  · rw [List.length_append, clearStream_length]
  · have hpages : List.range' k (8 - k) = k :: List.range' (k + 1) (7 - k) := by
      rw [show 8 - k = (7 - k) + 1 by omega, List.range'_succ]
    rw [clearStream_drop hk.le, hpages, List.flatMap_cons, clearPageEvents_eq]
    rfl
  · exact (clearStream_drop le_rfl).trans (seekEvents_homeColumn 0)
  · simp [hseekCmd, List.countP_replicate, -List.reduceReplicate]
  · simp [hseekData, List.countP_replicate, -List.reduceReplicate]
  · simp [seekEvents]

end Sys2Proof.Machine
end

section
/-!
PROOFS. The statements about characters of spec/42_character.md: the five classes of WRITE (R141, R144 to R147) and
CREATECHAR (R148, R150). WRITE of a printable and of a control code have one closed form; what is left is to say the
advance and the pattern by the rules' own formulas.
-/

namespace Sys2Proof.Machine

/-! ## Rejected bytes and NL (R141, R144) -/

/-- Settles O27: the class of the byte, and the closed form. -/
theorem rejectedWriteChangesNothing : Obligations.RejectedWriteChangesNothing := fun _ s h =>
  ⟨write_eq_writeReject h, exec_eq_requestResult rfl s⟩

/-- The commands of a Seek to a line taken modulo 256, at a stored column (R91 to R93, R144). -/
theorem seekEvents_u8_line (column : Byte) (line : Nat) :
    seekEvents column (u8 line) =
      [.cmd (u8 (0xB0 + line % 256)), .cmd (u8 (0x10 + column.toNat / 16)), .cmd (u8 (column.toNat % 16))] := rfl

/-- Settles O26: the closed form of NL, with the bytes of its Seek. -/
theorem newlineKeepsTheColumn : Obligations.NewlineKeepsTheColumn := by
  intro s
  rw [exec_eq_requestResult rfl, requestResult, seekEvents_u8_line]
  rfl

/-! ## CREATECHAR (R148) -/

/-- Settles O30: CREATECHAR writes the slots only, and of these the one of its code. -/
theorem createCharRegisters : Obligations.CreateCharRegisters := by
  refine ⟨fun code ptr s hcode => ⟨_, exec_eq_requestResult rfl s, rfl, ?_, fun c hc => ?_⟩,
    fun _ _ s _ => exec_eq_requestResult rfl s⟩
  · exact (registerGlyph_slot hcode ptr s code).trans (if_pos rfl)
  · exact (registerGlyph_slot hcode ptr s c).trans (if_neg hc)

/-! ## The advance by the rule's formula (R146) -/

/-- The column wraps to 0 where the rule's sum is a multiple of the width. -/
theorem advancedColumn_eq_zero_iff {s : State} (h : 0 < s.widthPx.toNat) :
    advancedColumn s = 0 ↔ (s.cursorColumn.toNat + 6) % s.widthPx.toNat = 0 := by
  rw [← advancedColumn_toNat h]
  exact BitVec.toNat_inj.symm

theorem advancedColumn_eq {s : State} (h : 0 < s.widthPx.toNat) :
    advancedColumn s = u8 ((s.cursorColumn.toNat + 6) % s.widthPx.toNat) := by
  rw [← advancedColumn_toNat h, u8, BitVec.ofNat_toNat, BitVec.setWidth_eq]

theorem advancedLine_eq {s : State} (h : 0 < s.widthPx.toNat) :
    advancedLine s =
      if (s.cursorColumn.toNat + 6) % s.widthPx.toNat = 0
      then u8 ((s.cursorLine.toNat + 1) % (s.heightPx.toNat / 9 + 1)) else s.cursorLine := by
  simp only [advancedLine, advancedColumn_eq_zero_iff h]
  rfl

/-! ## Glyphs (R145, R146) -/

/-- A registered pattern is read at its five addresses, in order (R145). -/
theorem patternReads_of_slot_some {chr : Byte} {ptr : Addr} {s : State} (h : chr.toNat < Config.space)
    (hslot : s.slot chr = some ptr) : patternReads chr s = patternAddrs ptr := by
  rw [patternReads, if_neg (not_le.2 h), hslot]

/-- An empty slot's pattern stands in the glyph table, not in source memory (R145). -/
theorem patternReads_of_slot_none {chr : Byte} {s : State} (h : chr.toNat < Config.space) (hslot : s.slot chr = none) :
    patternReads chr s = [] := by
  rw [patternReads, if_neg (not_le.2 h), hslot]

/-- WRITE of a printable and of a control code do the same but for the pattern, which the code selects. -/
theorem exec_glyph {i : Instr} {chr : Byte} (hi : i = .writePrint chr ∨ i = .writeCtrl chr) (s : State) :
    exec i s = .next (requestResult (.writePrint chr) s) := by
  obtain rfl | rfl := hi
  · exact exec_eq_requestResult rfl s
  · exact exec_eq_requestResult rfl s

/-- What a glyph WRITE leaves once its pattern is known, for a width that is not zero (R8). -/
theorem exec_glyph_of_pattern {i : Instr} {chr : Byte} {s : State} {bytes : List Byte} {addrs : List Addr}
    (hi : i = .writePrint chr ∨ i = .writeCtrl chr) (hwidth : s.widthPx ≠ 0) (hbytes : patternBytes chr s = bytes)
    (haddrs : patternReads chr s = addrs) :
    exec i s = .next
      { s with
        cursorColumn := u8 ((s.cursorColumn.toNat + 6) % s.widthPx.toNat)
        cursorLine :=
          if (s.cursorColumn.toNat + 6) % s.widthPx.toNat = 0
          then u8 ((s.cursorLine.toNat + 1) % (s.heightPx.toNat / 9 + 1)) else s.cursorLine
        port := s.port ++ bytes.map .data ++ [.data 0]
        reads := s.reads ++ addrs
        response := some 1 } := by
  have hpos : 0 < s.widthPx.toNat := Nat.pos_of_ne_zero fun h => hwidth (BitVec.eq_of_toNat_eq h)
  rw [exec_glyph hi, requestResult, hbytes, haddrs, advancedColumn_eq hpos, advancedLine_eq hpos, List.map_append,
    ← List.append_assoc]
  rfl

/-- Settles O28: `exec_glyph_of_pattern` for the three sources of a pattern. -/
theorem glyphRendersAndAdvances : Obligations.GlyphRendersAndAdvances := by
  intro chr s _ _ _ hwidth
  refine ⟨fun hspace => ?_, fun hspace ptr hslot => ?_, fun hspace hslot => ?_⟩
  · exact exec_glyph_of_pattern (.inl rfl) hwidth (patternBytes_of_space_le hspace s) (patternReads_of_space_le hspace s)
  · exact exec_glyph_of_pattern (.inr rfl) hwidth (patternBytes_of_slot_some hspace hslot)
      (patternReads_of_slot_some hspace hslot)
  · exact exec_glyph_of_pattern (.inr rfl) hwidth (patternBytes_of_slot_none hspace hslot)
      (patternReads_of_slot_none hspace hslot)

/-- Settles O29: in the closed form only the cursor is computed from the geometry. -/
theorem glyphBytesIgnoreTheGeometry : Obligations.GlyphBytesIgnoreTheGeometry := by
  intro chr width height i s hi
  have hlength : (patternBytes chr s ++ [0]).length = 6 := by simp [patternBytes_length]
  exact ⟨_, _, exec_glyph hi s, exec_glyph hi _, rfl, rfl, patternBytes chr s ++ [0], hlength, rfl⟩

/-- The multiples of BEGIN's width that a byte and six can reach are 128 and 256 (R147). -/
theorem add_six_mod_width_eq_zero_iff (column : Byte) :
    (column.toNat + 6) % 128 = 0 ↔ column.toNat = 122 ∨ column.toNat = 250 := by
  have hlt := column.isLt
  omega

/-- Settles O42: with BEGIN's geometry the rule's modulus is 128 and there are eight text lines; 6 and 128 are even. -/
theorem lineAdvancesFromTwoColumnsOnly : Obligations.LineAdvancesFromTwoColumnsOnly := by
  intro chr s t hinit ht
  obtain ⟨hwidth, hheight⟩ := (initialised_iff s).1 hinit
  have hpos : 0 < s.widthPx.toNat := by rw [hwidth]; decide
  obtain rfl : t = requestResult (.writePrint chr) s := by
    obtain ht | ht := ht <;> exact eq_requestResult rfl ht
  have hcolumn : (advancedColumn s).toNat = (s.cursorColumn.toNat + 6) % 128 := by
    rw [advancedColumn_toNat hpos, hwidth]
    rfl
  have hzero : advancedColumn s = 0 ↔ s.cursorColumn.toNat = 122 ∨ s.cursorColumn.toNat = 250 := by
    rw [advancedColumn_eq_zero_iff hpos, hwidth]
    exact add_six_mod_width_eq_zero_iff s.cursorColumn
  have hstays (h : ¬(s.cursorColumn.toNat = 122 ∨ s.cursorColumn.toNat = 250)) : advancedLine s = s.cursorLine :=
    if_neg (hzero.not.2 h)
  refine ⟨fun h => ⟨hzero.2 h, ?_⟩, fun h122 h250 => ?_, fun hodd => ⟨?_, hstays (by omega)⟩⟩
  · refine (if_pos (hzero.2 h)).trans ?_
    rw [hheight]
    rfl
  · have hneither := not_or.2 ⟨h122, h250⟩
    exact ⟨hcolumn, hzero.not.2 hneither, hstays hneither⟩
  · change (advancedColumn s).toNat % 2 = 1
    omega

/-! ## Slots 0x0A and 0x0D (R150) -/

/-- WRITE of the two codes is a Seek, whatever their slots hold (R143, R144). -/
theorem write_emits_seek {code : Byte} (h : code.toNat = 0x0A ∨ code.toNat = 0x0D) (s : State) :
    ∃ column line, emits (Instr.write code) s (seekEvents column line) := by
  obtain ⟨-, hcr, hnl, -, -⟩ := writeClassesByCode code
  obtain h | h := h
  · rw [hnl h]
    exact ⟨_, _, _, exec_eq_requestResult rfl s, rfl⟩
  · rw [hcr h]
    exact ⟨_, _, _, exec_eq_requestResult rfl s, rfl⟩

/-- A glyph depends on the slots by that of its own code only (R145). -/
theorem requestResult_glyph_withSlots {chr : Byte} {s : State} {slots : Vector (Option Addr) 32}
    (h : slots[chr.toNat]? = s.slots[chr.toNat]?) :
    requestResult (.writePrint chr) { s with slots := slots } =
      { requestResult (.writePrint chr) s with slots := slots } := by
  have hslot : ({ s with slots := slots } : State).slot chr = s.slot chr := by rw [State.slot, State.slot, h]
  have hbytes : patternBytes chr { s with slots := slots } = patternBytes chr s := by
    rw [patternBytes, patternBytes, hslot]
    rfl
  have hreads : patternReads chr { s with slots := slots } = patternReads chr s := by
    rw [patternReads, patternReads, hslot]
  simp only [requestResult, hbytes, hreads]
  rfl

/-- What the closed form does not see in the slots, `exec` does not. -/
theorem exec_withSlots {i : Instr} {s t : State} {slots : Vector (Option Addr) 32} (hreq : i.isRequest = true)
    (h : requestResult i { s with slots := slots } = { requestResult i s with slots := slots })
    (ht : exec i s = .next t) : exec i { s with slots := slots } = .next { t with slots := slots } := by
  rw [eq_requestResult hreq ht, exec_eq_requestResult hreq, h]

/-- WRITE depends on the slots by that of its code only, and of the codes of NL and CR not even by that: one case for
each class of R95. -/
theorem exec_write_withSlots {chr : Byte} {s t : State} {slots : Vector (Option Addr) 32}
    (h : ∀ c : Nat, c ≠ 0x0A → c ≠ 0x0D → slots[c]? = s.slots[c]?) (ht : exec (Instr.write chr) s = .next t) :
    exec (Instr.write chr) { s with slots := slots } = .next { t with slots := slots } := by
  obtain ⟨hreject, hcr, hnl, hprint, hctrl⟩ := writeClassesByCode chr
  by_cases h10 : chr.toNat = 0x0A
  · rw [hnl h10] at ht ⊢
    exact exec_withSlots rfl rfl ht
  by_cases h13 : chr.toNat = 0x0D
  · rw [hcr h13] at ht ⊢
    exact exec_withSlots rfl rfl ht
  by_cases h80 : 0x80 ≤ chr.toNat
  · rw [hreject h80] at ht ⊢
    exact exec_withSlots rfl rfl ht
  have hglyph := requestResult_glyph_withSlots (h chr.toNat h10 h13)
  by_cases h20 : 0x20 ≤ chr.toNat
  · rw [hprint h20 (by omega)] at ht ⊢
    exact exec_withSlots rfl hglyph ht
  · rw [hctrl (by omega) h10 h13] at ht ⊢
    exact exec_withSlots rfl hglyph ht

/-- Settles O38: CREATECHAR registers the two codes, being below 0x20; WRITE takes them as Seeks before it looks at a
slot. -/
theorem slotsOfCrAndNlNeverShow : Obligations.SlotsOfCrAndNlNeverShow := by
  refine ⟨fun code h => ⟨fun ptr s => ?_, fun s => ?_⟩, fun _ _ _ _ => exec_write_withSlots⟩
  · have hcode : code.toNat < 0x20 := by omega
    obtain ⟨t, ht, -, hslot, -⟩ := createCharRegisters.1 code ptr s hcode
    exact ⟨t, create_eq_createChar hcode ptr ▸ ht, hslot⟩
  · obtain ⟨column, line, hemits⟩ := write_emits_seek h s
    exact ⟨_, hemits, rfl, rfl⟩

end Sys2Proof.Machine
end

section
/-!
PROOFS. The statements about DRAWBITMAP of spec/43_bitmap.md: what it leaves (R160, R161, R163), and how many events it
emits and how far they reach (R162, R165). The closed form and the bound of a clip stand above; what is left is to say
a row by the rule's formulas, and to count its events.
-/

namespace Sys2Proof.Machine

/-! ## A row by the rules' formulas (R160, R161) -/

/-- `mx` of R161 is the model's clip at the width. -/
theorem clippedWidth_eq_blitWidth (columns : Byte) (s : State) : clippedWidth columns s = blitWidth columns s := rfl

/-- `my` of R161 is the model's clip at the number of pages. -/
theorem clippedHeight_eq_blitHeight (lines : Byte) (s : State) : clippedHeight lines s = blitHeight lines s := rfl

/-- The addresses of a row, with the sum written as R160 writes it. -/
theorem rowAddrs_eq (ptr : Addr) (columns r shown : Nat) :
    rowAddrs ptr columns r shown = (List.range shown).map fun x => u16 (ptr.toNat + r * columns + x) := by
  simp only [rowAddrs, addressAt, Nat.add_assoc]

/-- The events of a row: its Seek, then the bytes at its addresses. -/
theorem blitRowEvents_eq_sourceBytes (ptr : Addr) (columns sc sl : Byte) (mx : Nat) (s : State) :
    blitRowEvents ptr columns sc sl mx s = fun r =>
      seekEvents sc (u8 (sl.toNat + r)) ++
        (List.range mx).map fun x => .data (s.sourceByte (u16 (ptr.toNat + r * columns.toNat + x))) := by
  funext r
  rw [blitRowEvents, rowAddrs_eq, List.map_map, List.map_map]
  rfl

/-- Settles O31: the closed form of DRAWBITMAP, with each row's events and reads by the rule's formulas. -/
theorem bitmapClipsAndCopies : Obligations.BitmapClipsAndCopies := by
  intro columns lines ptr s
  rw [exec_eq_requestResult rfl, requestResult]
  simp only [clippedWidth_eq_blitWidth, clippedHeight_eq_blitHeight, rowAddrs_eq, blitRowEvents_eq_sourceBytes]
  rfl

/-! ## The counts (R165) -/

theorem seekEvents_length (column line : Byte) : (seekEvents column line).length = 3 := rfl

/-- A row of a blit holds the three commands of its Seek and `mx` data bytes. -/
theorem blitRowEvents_counts (ptr : Addr) (columns sc sl : Byte) (mx : Nat) (s : State) (r : Nat) :
    (blitRowEvents ptr columns sc sl mx s r).countP Event.isData = mx ∧
      (blitRowEvents ptr columns sc sl mx s r).countP Event.isCmd = 3 ∧
      (blitRowEvents ptr columns sc sl mx s r).length = mx + 3 := by
  simp [blitRowEvents_eq_sourceBytes, seekEvents_kinds, seekEvents_length, Function.comp_def, Nat.add_comm]

/-- What DRAWBITMAP adds to the port: its rows and the final Seek. -/
def blitEvents (columns lines : Byte) (ptr : Addr) (s : State) : List Event :=
  (List.range (blitHeight lines s)).flatMap
      (blitRowEvents ptr columns s.cursorColumn s.cursorLine (blitWidth columns s) s) ++
    seekEvents (u8 (s.cursorColumn.toNat + columns.toNat)) s.cursorLine

theorem requestResult_drawBitmap_port (columns lines : Byte) (ptr : Addr) (s : State) :
    (requestResult (.drawBitmap columns lines ptr) s).port = s.port ++ blitEvents columns lines ptr s :=
  List.append_assoc ..

theorem blitEvents_counts (columns lines : Byte) (ptr : Addr) (s : State) :
    (blitEvents columns lines ptr s).countP Event.isData = blitWidth columns s * blitHeight lines s ∧
      (blitEvents columns lines ptr s).countP Event.isCmd = 3 * blitHeight lines s + 3 ∧
      (blitEvents columns lines ptr s).length = (blitWidth columns s + 3) * blitHeight lines s + 3 := by
  simp [blitEvents, List.countP_flatMap, List.length_flatMap, Function.comp_def, blitRowEvents_counts,
    seekEvents_kinds, seekEvents_length, Nat.mul_comm]

/-- Settles O43: the counts of the rows and the final Seek; a clip that is not empty ends inside the edge. -/
theorem bitmapCountsAndBounds : Obligations.BitmapCountsAndBounds := by
  intro columns lines ptr s
  obtain ⟨hdata, hcmd, hlength⟩ := blitEvents_counts columns lines ptr s
  refine ⟨_, blitEvents columns lines ptr s, exec_eq_requestResult rfl s,
    requestResult_drawBitmap_port columns lines ptr s, hdata, hcmd, ?_, clip_end_le, clip_end_le, rfl, rfl⟩
  rw [hlength, hdata, hcmd, Nat.add_mul, Nat.add_assoc]

end Sys2Proof.Machine
end

section
/-!
PROOFS. The statements about DRAWCOLUMN of spec/44_column_bar.md: the clamp, the mark, the shift count and the byte
(R171 to R173), what the request leaves (R170, R175, R176), the height of a bar (R174) and the table for four pages
(R177). The mark, the shift and a page's byte in terms of the dark pixels stand above; what is left is to say the rules'
formulas, which are over the integers, by the model's.
-/

namespace Sys2Proof.Machine

/-! ## The rules' formulas and the model's (R171 to R173) -/

theorem barHeight_eq_barValue (lines value : Byte) : (barHeight lines value : Int) = barValue lines value := by
  rw [barHeight, barRegion_eq, barValue]
  omega

theorem barDark_eq (lines value : Byte) : (barDark lines value : Int) = lines.toNat * 8 - barValue lines value := by
  rw [barDark, barValue]
  omega

/-- The division of R172 truncates, so its quotient is not negative even for a full bar, whose numerator is -1. -/
theorem barMarkPage_nonneg (lines value : Byte) : 0 ≤ barMarkPage lines value := by
  have hdark := barDark_eq lines value
  rw [barMarkPage]
  obtain hfull | hpos := Nat.eq_zero_or_pos (barDark lines value)
  · rw [show lines.toNat * 8 - 1 - barValue lines value = -1 by omega]
    decide
  · exact Int.tdiv_nonneg (by omega) (by decide)

theorem barMark_eq_barMarkPage (lines value : Byte) : (barMark lines value : Int) = barMarkPage lines value := by
  rw [barMark, barHeight_eq_barValue]
  exact Int.toNat_of_nonneg (barMarkPage_nonneg lines value)

theorem barShift_eq_barShiftCount (lines value : Byte) :
    (barShift lines value : Int) = barShiftCount lines value := by
  have hdark := barDark_eq lines value
  have hmark := barMark_eq lines value
  rw [barShift_eq, barShiftCount, ← barMark_eq_barMarkPage]
  omega

/-- The count by the dark pixels alone (R173): those of the mark page. -/
theorem barShift_eq_of_barDark (lines value : Byte) :
    barShift lines value = barDark lines value - 8 * ((barDark lines value - 1) / 8) := by
  rw [barShift_eq, barMark_eq]

/-- R173's table of the byte. -/
theorem barByte_table :
    ∀ n ≤ 8, ([0xFF, 0xFE, 0xFC, 0xF8, 0xF0, 0xE0, 0xC0, 0x80, 0x00] : List Byte)[n]? = some (u8 (0xFF <<< n)) := by
  decide

/-- Settles O44: each of the rules' integers is the model's number, and the model's are arithmetic on the dark pixels. -/
theorem barMarkShiftAndByte : Obligations.BarMarkShiftAndByte := by
  intro lines value
  have hdark := barDark_eq lines value
  have hcount := barShift_eq_of_barDark lines value
  rw [← barShift_eq_barShiftCount]
  refine ⟨barHeight_eq_barValue lines value, barMark_eq_barMarkPage lines value, rfl,
    fun h => ⟨barMarkPage_nonneg lines value, ?_⟩, by omega, by omega, by omega, fun h => ?_, ?_⟩
  · have hlt := barMark_lt h value
    rw [← barMark_eq_barMarkPage]
    omega
  · split_ifs with hq <;> omega
  · exact barByte_table _ (by omega)

/-- The rule's byte of a page is the model's (R173, R174). -/
theorem barPageByte_eq (lines value : Byte) (p : Nat) : barPageByte lines value p = barColumnByte lines value p := by
  simp only [barPageByte, barColumnByte, barByte, ← barMark_eq_barMarkPage, ← barShift_eq_barShiftCount, Int.ofNat_lt,
    Int.natCast_inj, Int.toNat_natCast, Nat.shiftLeft_eq]

/-! ## What DRAWCOLUMN leaves (R170, R175, R176) -/

/-- What DRAWCOLUMN adds to the port: each page of the region, for `lines` = 0 the mark page alone, and the final Seek. -/
def barEvents (lines value : Byte) (s : State) : List Event :=
  ((List.range (max lines.toNat 1)).flatMap fun p =>
      seekEvents s.cursorColumn (u8 (s.cursorLine.toNat + p)) ++ [.data (barPageByte lines value p)]) ++
    seekEvents (u8 (s.cursorColumn.toNat + 1)) s.cursorLine

/-- A region without pages is a full bar, whose mark is page 0 (R176). -/
theorem barMark_of_no_lines {lines : Byte} (h : lines.toNat = 0) (value : Byte) : barMark lines value = 0 := by
  simp [barMark_eq, barDark, h]

theorem requestResult_drawColumn_port (lines value : Byte) (s : State) :
    (requestResult (.drawColumn lines value) s).port = s.port ++ barEvents lines value s := by
  rw [barEvents, ← List.append_assoc]
  simp only [barPageByte_eq]
  obtain hzero | hpos := Nat.eq_zero_or_pos lines.toNat
  · simp [requestResult, barMark_of_no_lines hzero, hzero, barPageEvents, barColumnByte]
  · rw [max_eq_left hpos]
    exact drawColumn_port hpos value s

theorem drawColumn_emits (lines value : Byte) (s : State) :
    emits (.drawColumn lines value) s (barEvents lines value s) :=
  ⟨_, exec_eq_requestResult rfl s, requestResult_drawColumn_port lines value s⟩

/-- Settles O32: in the closed form of DRAWCOLUMN only the port is computed from the bar. -/
theorem barWritesEveryPage : Obligations.BarWritesEveryPage := by
  intro lines value s
  have hport := requestResult_drawColumn_port lines value s
  rw [barEvents, ← List.append_assoc] at hport
  rw [exec_eq_requestResult rfl, ← hport]
  rfl

/-! ## The height of a bar (R174) -/

/-- A Seek holds no data byte. -/
theorem seekEvents_dataBytes (column line : Byte) : (seekEvents column line).filterMap Event.dataByte = [] := rfl

theorem barEvents_dataBytes (lines value : Byte) (s : State) :
    (barEvents lines value s).filterMap Event.dataByte =
      (List.range (max lines.toNat 1)).map (barPageByte lines value) := by
  simp [barEvents, seekEvents_dataBytes, Event.dataByte, List.filterMap_flatMap, ← List.map_eq_flatMap]

/-- Of the first `n` naturals, those from `d` on. -/
theorem countP_range_le (d n : Nat) : (List.range n).countP (fun j => decide (d ≤ j)) = n - d := by
  induction n with
  | zero => simp
  | succ n ih =>
    simp only [List.range_succ, List.countP_append, ih, List.countP_singleton, decide_eq_true_eq]
    split_ifs <;> omega

/-- A page is lit below the dark pixels that reach it (R174). -/
theorem litPixels_barPageByte (lines value : Byte) (p : Nat) :
    litPixels (barPageByte lines value p) = 8 - (barDark lines value - 8 * p) := by
  have hbits : ∀ j ∈ List.range 8, (barPageByte lines value p).getLsbD j = decide (barDark lines value - 8 * p ≤ j) := by
    intro j hj
    rw [barPageByte_eq, barColumnByte_getLsbD lines value p (List.mem_range.1 hj), decide_eq_decide]
    omega
  rw [litPixels, List.countP_congr fun j hj => by rw [hbits j hj], countP_range_le]

/-- The first `n` pages of a region are lit but for its dark pixels. -/
theorem sum_litPixels_barPages (lines value : Byte) (n : Nat) :
    (((List.range n).map (barPageByte lines value)).map litPixels).sum = 8 * n - barDark lines value := by
  induction n with
  | zero => simp
  | succ n ih =>
    rw [List.range_succ, List.map_append, List.map_append, List.sum_append, ih]
    simp only [List.map_cons, List.map_nil, List.sum_singleton, litPixels_barPageByte]
    omega

/-- Settles O45: the bytes of the pages, and the sum of their lit pixels. -/
theorem barIsExactlyItsValueTall : Obligations.BarIsExactlyItsValueTall := by
  intro lines value s hlines
  have hbytes := barEvents_dataBytes lines value s
  have hmark := barMark_lt hlines value
  rw [max_eq_left hlines] at hbytes
  refine ⟨_, _, drawColumn_emits lines value s, hbytes, by simp, fun p habove => ?_, fun p hbelow hp => ?_, ?_⟩
  · have hp : p < lines.toNat := by
      rw [← barMark_eq_barMarkPage] at habove
      omega
    simp [hp, barPageByte, habove]
  · simp [hp, barPageByte, hbelow.not_gt, hbelow.ne']
  · have hdark := barDark_eq lines value
    have hheight := barHeight_eq_barValue lines value
    rw [sum_litPixels_barPages]
    omega

/-! ## Bars of four pages (R177) -/

/-- A row of the table: its numbers and bytes are closed, and the bytes determine the events. -/
theorem bar_row_of_bytes {value b : Byte} {v mark n : Nat} {pages : List Byte}
    (h : barHeight 4 value = v ∧ barMark 4 value = mark ∧ barShift 4 value = n ∧ barByte 4 value = b ∧
      (List.range 4).map (barPageByte 4 value) = pages) :
    barHeight 4 value = v ∧ barMark 4 value = mark ∧ barShift 4 value = n ∧ barByte 4 value = b ∧
      ∀ s : State, emits (.drawColumn 4 value) s
        ((pages.zipIdx.flatMap fun (page, p) =>
          seekEvents s.cursorColumn (u8 (s.cursorLine.toNat + p)) ++ [.data page]) ++
          seekEvents (u8 (s.cursorColumn.toNat + 1)) s.cursorLine) := by
  obtain ⟨hv, hmark, hn, hb, rfl⟩ := h
  exact ⟨hv, hmark, hn, hb, drawColumn_emits 4 value⟩

/-- Settles O46: each row's numbers and bytes, by evaluation. -/
theorem barResultsForFourPages : Obligations.BarResultsForFourPages := by
  intro row hrow
  fin_cases hrow <;> exact bar_row_of_bytes (by decide)

end Sys2Proof.Machine
end

section
/-!
PROOFS. The statement about exceptions of spec/60_exceptions.md: no step stops (R180). The case analysis of a step
stands above as `step_total`: the wait, the event taken, the response, the host's action, and the idle step.
-/

namespace Sys2Proof.Machine

/-- Settles O12: `step_total` answers a next state in every case; a request's is `exec_request`, an event's is
`sinkReact_eq`. -/
theorem stepAlwaysAnswersNext : Obligations.StepAlwaysAnswersNext := fun s => by
  obtain ⟨t, hstep, -⟩ := step_total s
  exact ⟨t, hstep⟩

end Sys2Proof.Machine
end
